-- ==== Sys2Proof/Word.lean ====
section
/-! DEFINITION. The word types of the engine (spec 00_scope.md R12, R15). -/

namespace Sys2Proof

/-- A `u64`: every stored value of the engine (R15). All arithmetic on it is modulo 2^64. -/
abbrev Word := BitVec 64

/-- A `u32`: one entropy word (R12, R15). -/
abbrev HalfWord := BitVec 32

/-- The largest `u64`, `2^64 - 1` (R15). -/
def maxWord : Word := 0xFFFFFFFFFFFFFFFF#64

end Sys2Proof
end

