-- ==== Sys2Proof/Syntax.lean ====
section
/-! DEFINITION. The ten commands of the opcode table (spec 30_encoding.md R72). -/

namespace Sys2Proof

/-- One constructor per row of spec/opcode_table.json. A command word has no operand fields: operands are read
from the `ARG` registers when `CMD` is written (R75), so no constructor has an argument. -/
inductive Instr
  /-- `SEED`: seed from a seed value and a stream selector (R101). -/
  | seed
  /-- `SEED_DEF`: seed with the default seed and stream (R102). -/
  | seedDef
  /-- `SEED_ENT`: seed from eight 32-bit entropy words (R104). -/
  | seedEnt
  /-- `NEXT`: draw one word (R131). -/
  | next
  /-- `DISCARD`: skip ahead (R136). -/
  | discard
  /-- `EQUALS`: compare with a supplied identity (R151). -/
  | equals
  /-- `SAVE`: read out the identity words (R161). -/
  | save
  /-- `LOAD`: restore the identity words (R162). -/
  | load
  /-- `MINVAL`: the smallest word value (R181). -/
  | minval
  /-- `MAXVAL`: the largest word value (R182). -/
  | maxval
  deriving DecidableEq, Repr

/-- Every command once, in the table's order (R72). -/
def Instr.all : List Instr :=
  [.seed, .seedDef, .seedEnt, .next, .discard, .equals, .save, .load, .minval, .maxval]

end Sys2Proof
end

