-- ==== Sys2Proof/WellFormed.lean ====
section
/-! DEFINITION. What makes a command word, a command and an operand list well formed
(spec 30_encoding.md R70, R72, R74, R75, R79). -/

namespace Sys2Proof

/-- Field `OPC`, bits `[7:0]` of a command word (R70). -/
def opc (w : Word) : BitVec 8 := w.extractLsb' 0 8

/-- Field `MBZ`, bits `[63:8]` of a command word (R70). -/
def mbz (w : Word) : BitVec 56 := w.extractLsb' 8 56

/-- The ten defined `OPC` values (R72); the other 246 are reserved (R74(b)). -/
def definedOpcodes : List (BitVec 8) :=
  [0x01, 0x02, 0x03, 0x10, 0x11, 0x20, 0x30, 0x31, 0x40, 0x41]

/-- First check of a command word: the must-be-zero field is zero (R74(a)). -/
def mbzWellFormed (w : Word) : Bool := mbz w == 0

/-- Second check of a command word: `OPC` is one of the ten (R74(b)). -/
def opcWellFormed (w : Word) : Bool := definedOpcodes.contains (opc w)

/-- A command word that selects a command. -/
def wordWellFormed (w : Word) : Bool := mbzWellFormed w && opcWellFormed w

/-- Every term of `Instr` is well formed: the command word carries no operand field that could be out of range (R75). -/
def Instr.wellFormed : Instr → Bool
  | .seed => true
  | .seedDef => true
  | .seedEnt => true
  | .next => true
  | .discard => true
  | .equals => true
  | .save => true
  | .load => true
  | .minval => true
  | .maxval => true

/-- How many operands the pseudo-instruction of a command has; `none` where it has no operand form (R79). -/
def Instr.operandCount : Instr → Option Nat
  | .seed => some 2
  | .seedDef => none
  | .seedEnt => some 8
  | .next => none
  | .discard => some 1
  | .equals => some 5
  | .save => none
  | .load => some 5
  | .minval => none
  | .maxval => none

/-- The number of operands is the one the pseudo-instruction asks for (R79). -/
def operandCountWellFormed (i : Instr) (ops : List Nat) : Bool := i.operandCount == some ops.length

/-- Every numeric literal lies in `0 .. 2^64-1` (R78). -/
def operandRangeWellFormed (ops : List Nat) : Bool := ops.all fun n => decide (n < 2 ^ 64)

/-- An operand of `SEED_ENT` is below `2^32` (R79). -/
def entropyRangeWellFormed (i : Instr) (ops : List Nat) : Bool :=
  i != .seedEnt || ops.all fun n => decide (n < 2 ^ 32)

end Sys2Proof
end

