-- ==== Sys2Proof/Decode.lean ====
section
/-! DEFINITION. Decoding a command word, rejecting by name, and encoding a command
(spec 30_encoding.md R70 to R74; spec/opcode_table.json). -/

namespace Sys2Proof

/-- Why a command word selects nothing (60_exceptions.md R200). -/
inductive CommandError
  /-- `ILLEGAL_OPCODE`: `v[63:8] = 0` and `OPC` is not one of the ten (R74(b)). -/
  | illegalOpcode
  /-- `RESERVED_BITS`: `v[63:8] != 0`, whatever `OPC` is (R74(a)). -/
  | reservedBits
  deriving DecidableEq, Repr

/-- A row of the opcode table: a word is the command's when it equals `word` on the bits of `mask` (R72). -/
structure OpcodeRow where
  word : Word
  mask : Word
  instr : Instr
  deriving DecidableEq, Repr

/-- spec/opcode_table.json, row by row: all 64 bits of a command word are compared (R72). -/
def opcodeTable : List OpcodeRow :=
  [ ⟨0x0000000000000001, 0xFFFFFFFFFFFFFFFF, .seed⟩,
    ⟨0x0000000000000002, 0xFFFFFFFFFFFFFFFF, .seedDef⟩,
    ⟨0x0000000000000003, 0xFFFFFFFFFFFFFFFF, .seedEnt⟩,
    ⟨0x0000000000000010, 0xFFFFFFFFFFFFFFFF, .next⟩,
    ⟨0x0000000000000011, 0xFFFFFFFFFFFFFFFF, .discard⟩,
    ⟨0x0000000000000020, 0xFFFFFFFFFFFFFFFF, .equals⟩,
    ⟨0x0000000000000030, 0xFFFFFFFFFFFFFFFF, .save⟩,
    ⟨0x0000000000000031, 0xFFFFFFFFFFFFFFFF, .load⟩,
    ⟨0x0000000000000040, 0xFFFFFFFFFFFFFFFF, .minval⟩,
    ⟨0x0000000000000041, 0xFFFFFFFFFFFFFFFF, .maxval⟩ ]

/-- A word matches a row of the table. -/
def OpcodeRow.matchesWord (r : OpcodeRow) (w : Word) : Bool := w &&& r.mask == r.word

/-- The decoder: `MBZ` is checked first (R71, R203), then the table is searched; anything else is an illegal opcode. -/
def decode (w : Word) : Except CommandError Instr :=
  if mbz w ≠ 0 then .error .reservedBits
  else
    match opcodeTable.find? (·.matchesWord w) with
    | some row => .ok row.instr
    | none => .error .illegalOpcode

/-- The `OPC` value of a command (R72). -/
def opcodeOf : Instr → BitVec 8
  | .seed => 0x01
  | .seedDef => 0x02
  | .seedEnt => 0x03
  | .next => 0x10
  | .discard => 0x11
  | .equals => 0x20
  | .save => 0x30
  | .load => 0x31
  | .minval => 0x40
  | .maxval => 0x41

/-- The encoder: `OPC` in bits `[7:0]`, zeros in `[63:8]` (R70). -/
def encode (i : Instr) : Word := (opcodeOf i).setWidth 64

/-- The instruction the decoder reads from the `nbits` low bits of `w`, the bits above them zero. A command word is a
64-bit value with bit 0 its least significant, and the engine has no byte order (20_memory.md R54), so the table's
numbering of bits is the word's own. -/
def decodeTableWord (nbits w : Nat) : Option Instr :=
  match decode (BitVec.ofNat 64 (w % 2 ^ nbits)) with
  | .ok i => some i
  | .error _ => none

end Sys2Proof
end

