-- ==== Sys2Proof/Config.lean ====
section
/-! DEFINITION. What a build of the engine or its platform fixes, and the free values (spec 00_scope.md R10, R11;
20_memory.md R50, R54; 10_state.md R43). -/

namespace Sys2Proof

/-- A generator family: the eleven constant parameters and the round count (R10, R11, R19).
The spec gives no numeric value for the eleven words; `rounds` is any `u32`, zero included, and 10 by default (R10). -/
structure Family where
  /-- `P_CIN[0..3]`, input words 0 to 3. -/
  cin : Vector Word 4
  /-- `P_CIV[0..4]`, input words 8 to 12. -/
  civ : Vector Word 5
  /-- `P_KEY0`, key word 0 after `SEED` and `SEED_DEF`. -/
  key0 : Word
  /-- `P_KEY1`, key word 1 after `SEED` and `SEED_DEF`. -/
  key1 : Word
  /-- `P_DEFSEED`, the default seed. -/
  defSeed : Word
  /-- `P_DEFSTREAM`, the default stream. -/
  defStream : Word
  /-- `R`, the round count, a natural number in `0 .. 2^32-1`. -/
  rounds : BitVec 32 := 10
  deriving DecidableEq, Repr, Inhabited

namespace Config

/-- The family of this build: OPEN parameters of the spec (R10, R11), so a constant with no body.
See notes/assumptions/5.md. -/
opaque family : Family

/-- Free values, one per index: what `CACHE` holds after a reset (R43, `any u64 values (a draw)`).
See notes/assumptions/4.md. -/
opaque freeWord : Nat → Word

/-- `P_BASE`, the platform address of the window: an OPEN parameter (20_memory.md R50). See notes/assumptions/11.md. -/
opaque pBase : Nat

/-- `P_LANES`, which byte of a 64-bit value each byte lane of a narrower bus carries: an OPEN parameter
(20_memory.md R54). See notes/assumptions/11.md. -/
opaque pLanes : Fin 8 → Fin 8

end Config

end Sys2Proof
end

