-- ==== Sys2Proof/Machine/State.lean ====
section
/-! DEFINITION. The state of the engine and of its port, the reasons a run can stop, and reset
(spec 10_state.md R20 to R43; 20_memory.md R51, R55; 70_reset_and_hazards.md R230). -/

namespace Sys2Proof.Machine

/-- The key material `K[0..3]` (R20). -/
abbrev Key := Vector Word 4

/-- A 16-word block (41_permutation.md R118; R17: a vector indexed from 0). -/
abbrev Block := Vector Word 16

/-- One host access: the primitives `MemRead(off, n)` and `MemWrite(off, n, v)` of 00_scope.md R16, `n` in bytes. -/
inductive Access
  /-- A read of `bytes` bytes at window offset `off`. -/
  | read (off bytes : Nat)
  /-- A write of `bytes` bytes at window offset `off`. -/
  | write (off bytes : Nat) (value : Word)
  deriving DecidableEq, Repr

/-- One event at the engine's boundary, a step of 20_memory.md R55's total order. -/
inductive PortEvent
  /-- Host number `host` makes an access (20_memory.md R60). -/
  | access (host : Nat) (a : Access)
  /-- The platform resets the engine, or power is lost (70_reset_and_hazards.md R230; 60_exceptions.md R215). -/
  | reset
  deriving DecidableEq, Repr

/-- The value a register read gave to a host (20_memory.md R52). -/
structure Response where
  host : Nat
  off : Nat
  value : Word
  deriving DecidableEq, Repr

/-- Why a run stops with a fault. -/
inductive Fault
  /-- `UNSUPPORTED_ACCESS(off, width)`: a host access that is not 8 bytes wide, not aligned to 8, or beyond `0xF8`
  (20_memory.md R51). Raised by the port (Machine/Port.lean). Safe: the run that makes it is faulted, and no claim about
  it can be proved. -/
  | unsupportedAccess (off bytes : Nat)
  deriving DecidableEq, Repr

/-- Why a step is refused. No command of this model is refused. -/
inductive Refusal
  /-- An instruction that has no meaning yet, by its mnemonic; raised by no arm of `exec`. Safe. -/
  | notModelled (mnemonic : String)
  deriving DecidableEq, Repr

/-- The state of the machine. The first eight fields are the spec's; the last three are the model's own. -/
structure State where
  /-- `K[0..3]` (R20). -/
  key : Key
  /-- `CTR`, the position counter (R22). -/
  ctr : Word
  /-- `CACHE[0..15]` (R23). -/
  cache : Block
  /-- `CIDX`, the cached block index or the sentinel (R24). -/
  cidx : Word
  /-- `STATUS` (R33). -/
  status : Word
  /-- `ARG[0..7]` (R34). -/
  arg : Vector Word 8
  /-- `RES[0..4]` (R35). -/
  res : Vector Word 5
  /-- The `PERMUTE` event history, oldest first (R42; notes/assumptions/9.md). -/
  permutes : List Word
  /-- The model's own: accesses and resets that have not reached the port yet, next first (notes/assumptions/1.md). -/
  pending : List PortEvent
  /-- The model's own: the values given to hosts so far, oldest first (notes/assumptions/3.md). -/
  responses : List Response
  /-- The model's own: the index of the next free value (notes/assumptions/4.md). -/
  freeNext : Nat
  deriving DecidableEq, Repr

/-- `SENTINEL = 2^64 - 1` in `CIDX`: no valid cache (R25). -/
def sentinel : Word := 0xFFFFFFFFFFFFFFFF#64

/-- Sixteen free values, from number `n` on: what `CACHE` holds after a reset (R43). -/
def freeBlock (n : Nat) : Block := Vector.ofFn fun j : Fin 16 => Config.freeWord (n + j)

/-- The state of an engine of family `F` right after a reset that draws free values from number `n` on (R43, R230). -/
def State.resetFrom (F : Family) (n : Nat) : State where
  key := #v[F.key0, F.key1, F.defSeed, F.defStream]
  ctr := 0
  cache := freeBlock n
  cidx := sentinel
  status := 0
  arg := Vector.replicate 8 0
  res := Vector.replicate 5 0
  permutes := []
  pending := []
  responses := []
  freeNext := n + 16

/-- The machine right after reset (R43). -/
def State.reset : State := State.resetFrom Config.family 0

end Sys2Proof.Machine
end

