-- ==== Sys2Proof/Machine/Flags.lean ====
section
/-! DEFINITION. The fields of STATUS, the only flags of the engine (spec 10_state.md R33, R41; 60_exceptions.md R200, R202). -/

namespace Sys2Proof.Machine

/-- `STATUS.ERR`, bit 0 (R33). -/
def statusErr (st : Word) : BitVec 1 := st.extractLsb' 0 1

/-- `STATUS.ERRCODE`, bits `[15:8]` (R33). -/
def statusErrCode (st : Word) : BitVec 8 := st.extractLsb' 8 8

/-- The error code of a rejected command word (R200). -/
def errorCode : CommandError → BitVec 8
  | .illegalOpcode => 0x01
  | .reservedBits => 0x02

/-- What a rejected command word leaves in STATUS: `(zext_64(code) << 8) | 1` (R202). -/
def errorStatus (e : CommandError) : Word := ((errorCode e).setWidth 64 <<< 8) ||| 1#64

/-- What an accepted command leaves in STATUS (R33). -/
def acceptedStatus : Word := 0

end Sys2Proof.Machine
end

