-- ==== Sys2Proof/Machine/Ops.lean ====
section
/-! DEFINITION. The register writes `X <- v` of 00_scope.md R16, the effects every command shares, a command error and a
reset event (spec 10_state.md R20 to R43; 60_exceptions.md R202, R205; 70_reset_and_hazards.md R230). -/

namespace Sys2Proof.Machine

/-- `K <- k` (R20). -/
def State.setKey (s : State) (k : Key) : State := { s with key := k }

/-- `CTR <- c` (R22). -/
def State.setCtr (s : State) (c : Word) : State := { s with ctr := c }

/-- `CACHE <- b`, all sixteen words at once (R23). -/
def State.setCache (s : State) (b : Block) : State := { s with cache := b }

/-- `CIDX <- b` (R24). -/
def State.setCidx (s : State) (b : Word) : State := { s with cidx := b }

/-- `STATUS <- v` (R33). -/
def State.setStatus (s : State) (v : Word) : State := { s with status := v }

/-- `ARG[i] <- v` (R34). -/
def State.setArg (s : State) (i : Fin 8) (v : Word) : State := { s with arg := s.arg.set i v }

/-- `RES[i] <- v` (R35). -/
def State.setRes (s : State) (i : Fin 5) (v : Word) : State := { s with res := s.res.set i v }

/-- `record PERMUTE(b)` (R42). -/
def State.recordPermute (s : State) (b : Word) : State := { s with permutes := s.permutes ++ [b] }

/-- A value is given to a host (20_memory.md R52). -/
def State.respond (s : State) (r : Response) : State := { s with responses := s.responses ++ [r] }

/-- The events still to reach the port. -/
def State.setPending (s : State) (p : List PortEvent) : State := { s with pending := p }

/-- Invalidating the cache is `CIDX <- SENTINEL` alone; the `CACHE` words keep their contents (R24). -/
def State.invalidate (s : State) : State := s.setCidx sentinel

/-- What every accepted command does last: `STATUS <- 0` (30_encoding.md R71). It is also all there is to a return from
an error (60_exceptions.md R205). -/
def State.accept (s : State) : State := s.setStatus acceptedStatus

/-- `raise CommandError(code)`: the one shared operation by which the engine takes an error. It writes STATUS and nothing
else, transfers no control and saves no other state (60_exceptions.md R202, R204). -/
def State.commandError (s : State) (e : CommandError) : State := s.setStatus (errorStatus e)

/-- The reset of an engine of family `F` that draws free values from number `n` on (R230): every piece of the engine's
state goes to its reset value; the accesses still pending and the values already given to hosts are not the engine's
(notes/assumptions/10.md). -/
def State.resetEngine (s : State) (F : Family) (n : Nat) : State :=
  { State.resetFrom F n with pending := s.pending, responses := s.responses }

/-- A reset event of the engine of this build (R230). -/
def State.applyReset (s : State) : State := s.resetEngine Config.family s.freeNext

end Sys2Proof.Machine
end

