-- ==== Sys2Proof/Machine/Operands.lean ====
section
/-! DEFINITION. Operand assembly: how each command reads the ARG registers (spec 30_encoding.md R75; 40_seeding.md R104). -/

namespace Sys2Proof.Machine

/-- A whole operand register, `ARG[i][63:0]` (R75). -/
def State.operand (s : State) (i : Fin 8) : Word := s.arg[i]

/-- Entropy word `e[i] = ARG[i][31:0]`; bits `[63:32]` are ignored (R75, R104). -/
def State.entropyWord (s : State) (i : Fin 8) : HalfWord := (s.operand i).extractLsb' 0 32

/-- `(zext_64(hi) << 32) | zext_64(lo)` (00_scope.md R17; R104). It is irreducible so that proofs compare two packed words
by their halves and never by shifting; `packWords_eq` in Laws/Operands.lean says what it is. -/
@[irreducible] def packWords (hi lo : HalfWord) : Word := (hi.setWidth 64 <<< 32) ||| lo.setWidth 64

/-- The four key words of SEED_ENT: key word `i` is entropy word `2i` (high half) with entropy word `2i + 1` (low half)
(R104, R105). -/
def State.packedKey (s : State) : Key :=
  #v[ packWords (s.entropyWord 0) (s.entropyWord 1),
      packWords (s.entropyWord 2) (s.entropyWord 3),
      packWords (s.entropyWord 4) (s.entropyWord 5),
      packWords (s.entropyWord 6) (s.entropyWord 7) ]

/-- The key words in `ARG[0..3]`, operands of EQUALS and LOAD (R75). -/
def State.operandKey (s : State) : Key := #v[s.operand 0, s.operand 1, s.operand 2, s.operand 3]

/-- The counter in `ARG[4]`, operand of EQUALS and LOAD (R75). -/
def State.operandCtr (s : State) : Word := s.operand 4

end Sys2Proof.Machine
end

