-- ==== Sys2Proof/Machine/Permutation.lean ====
section
/-! DEFINITION. The block permutation (spec 41_permutation.md R110 to R124). -/

namespace Sys2Proof.Machine

/-- Rotate right by `n` bits, `n` in `1..63` (R110). -/
def rotr (x : Word) (n : Nat) : Word := (x >>> n) ||| (x <<< (64 - n))

/-- The four rotation amounts of a quarter-round, in the order of use (R113; 91_not_in_source.md N10). -/
def rot1 : Nat := 32
/-- The second rotation amount (R113). -/
def rot2 : Nat := 24
/-- The third rotation amount (R113). -/
def rot3 : Nat := 16
/-- The fourth rotation amount (R113). -/
def rot4 : Nat := 63

/-- `x[a] <- x[a] + x[b]`. -/
def addAt (x : Block) (a b : Fin 16) : Block := x.set a (x[a] + x[b])

/-- `x[d] <- x[d] ^ x[a]`. -/
def xorAt (x : Block) (d a : Fin 16) : Block := x.set d (x[d] ^^^ x[a])

/-- `x[d] <- rotr(x[d], n)`. -/
def rotAt (x : Block) (d : Fin 16) (n : Nat) : Block := x.set d (rotr x[d] n)

/-- The quarter-round `QR(a, b, c, d)`: twelve steps in this order, each on the values the step before left (R113). -/
def quarterRound (x : Block) (a b c d : Fin 16) : Block :=
  let x := addAt x a b
  let x := xorAt x d a
  let x := rotAt x d rot1
  let x := addAt x c d
  let x := xorAt x b c
  let x := rotAt x b rot2
  let x := addAt x a b
  let x := xorAt x d a
  let x := rotAt x d rot3
  let x := addAt x c d
  let x := xorAt x b c
  rotAt x b rot4

/-- The four positions of a quarter-round. -/
structure Quadruple where
  a : Fin 16
  b : Fin 16
  c : Fin 16
  d : Fin 16
  deriving DecidableEq, Repr

/-- The eight quadruples of one round, columns first, then diagonals (R114). -/
def schedule : List Quadruple :=
  [ ⟨0, 4, 8, 12⟩, ⟨1, 5, 9, 13⟩, ⟨2, 6, 10, 14⟩, ⟨3, 7, 11, 15⟩,
    ⟨0, 5, 10, 15⟩, ⟨1, 6, 11, 12⟩, ⟨2, 7, 8, 13⟩, ⟨3, 4, 9, 14⟩ ]

/-- One round: the quarter-rounds of the schedule, in order (R114). -/
def mixRound (x : Block) : Block := schedule.foldl (fun x q => quarterRound x q.a q.b q.c q.d) x

/-- `repeat n times: Round(x)` (R115). -/
def mixRounds : Nat → Block → Block
  | 0, x => x
  | n + 1, x => mixRounds n (mixRound x)

/-- The input vector for key material `k` and block index `b` (R112). -/
def inputVector (F : Family) (k : Key) (b : Word) : Block :=
  #v[F.cin[0], F.cin[1], F.cin[2], F.cin[3],
     k[0], k[1], k[2], k[3],
     F.civ[0], F.civ[1], F.civ[2], F.civ[3], F.civ[4],
     b + 1, 0, 0]

/-- The feed-forward: the working block plus the input, word by word (R116). -/
def feedForward (x input : Block) : Block := Vector.ofFn fun i : Fin 16 => x[i] + input[i]

/-- `Block(K, b)`: the output block for index `b` (R118), a function of its arguments and the family alone (R121).
It is irreducible so that proofs about the machine never unfold a block; `block_eq` in Laws/Permutation.lean says what it is. -/
@[irreducible] def block (F : Family) (k : Key) (b : Word) : Block :=
  let input := inputVector F k b
  feedForward (mixRounds F.rounds.toNat input) input

/-- Test configuration `T0` of R124: for the tests only, not the generator's constants. -/
def testFamilyT0 : Family where
  cin := #v[0, 0, 0, 0]
  civ := #v[0, 0, 0, 0, 0]
  key0 := 0
  key1 := 0
  defSeed := 0
  defStream := 0

/-- Test configuration `T1` of R124: for the tests only, not the generator's constants. -/
def testFamilyT1 : Family where
  cin := #v[1, 2, 3, 4]
  civ := #v[5, 6, 7, 8, 9]
  key0 := 10
  key1 := 11
  defSeed := 12
  defStream := 13

end Sys2Proof.Machine
end

