-- ==== Sys2Proof/Machine/Draw.lean ====
section
/-! DEFINITION. The draw and skip-ahead commands NEXT and DISCARD (spec 42_draw.md R130 to R136). -/

namespace Sys2Proof.Machine

/-- The block index of a counter value, `c >> 4` (R130). -/
def blockIndex (c : Word) : Word := c >>> 4

/-- The offset of a counter value in its block, `c mod 16` (R130). -/
def blockOffset (c : Word) : Fin 16 := ⟨c.toNat % 16, Nat.mod_lt _ (by decide)⟩

/-- Word number `c` of the output stream of key material `k`: word `c mod 16` of block `c div 16` (R130). -/
def streamWord (F : Family) (k : Key) (c : Word) : Word := (block F k (blockIndex c))[blockOffset c]

/-- A miss: the block of the counter is computed, cached and recorded (R131, R132). -/
def State.fillCache (F : Family) (s : State) : State :=
  ((s.setCache (block F s.key (blockIndex s.ctr))).setCidx (blockIndex s.ctr)).recordPermute (blockIndex s.ctr)

/-- The comparison NEXT always makes: a hit leaves the cache, a miss fills it (R132). -/
def State.refreshCache (F : Family) (s : State) : State :=
  if s.cidx = blockIndex s.ctr then s else s.fillCache F

/-- Drawing a word: `RES[0]` is the cached word at the offset of the counter BEFORE the increment, and `CTR` steps by one
modulo `2^64` (R131, R133, R134). -/
def State.draw (F : Family) (s : State) : State :=
  let t := s.refreshCache F
  (t.setRes 0 t.cache[blockOffset t.ctr]).setCtr (t.ctr + 1)

/-- Skipping `n` words: `CTR <- (CTR + n) mod 2^64`, nothing else (R136). -/
def State.skip (s : State) (n : Word) : State := s.setCtr (s.ctr + n)

/-- NEXT on an engine of family `F` (R131). -/
def execNextOf (F : Family) (s : State) : Host.Outcome State Fault Refusal := .next (s.draw F).accept

/-- NEXT (R131). -/
def execNext (s : State) : Host.Outcome State Fault Refusal := execNextOf Config.family s

/-- DISCARD (R136). -/
def execDiscard (s : State) : Host.Outcome State Fault Refusal := .next (s.skip (s.operand 0)).accept

end Sys2Proof.Machine
end

