-- ==== Sys2Proof/Machine/Equality.lean ====
section
/-! DEFINITION. Equality of generators and the command EQUALS (spec 43_equality.md R150 to R153; 10_state.md R27). -/

namespace Sys2Proof.Machine

/-- The identity of a generator of family `F`: the four key words and the counter (10_state.md R27). The family is in the
type, so identities of two families have two types (R153). -/
structure Identity (F : Family) where
  key : Key
  ctr : Word
  deriving DecidableEq, Repr

/-- The comparison of the five identity words, in the order of R160: all four key words pairwise equal and the counters
equal; the cache takes no part (R150). -/
def sameIdentityWords (k : Key) (c : Word) (k' : Key) (c' : Word) : Bool :=
  k[0] == k'[0] && k[1] == k'[1] && k[2] == k'[2] && k[3] == k'[3] && c == c'

/-- `Equal`, typed over one family: asked of identities of two families it is a type error, not `false` (R150, R153). -/
def equalIdentity {F : Family} (x y : Identity F) : Bool := sameIdentityWords x.key x.ctr y.key y.ctr

/-- The identity of the machine of `step`, an engine of the family of this build (R27). An engine of any family has
`Engine.identity` (Machine/Engine.lean). -/
def State.identity (s : State) : Identity Config.family := ⟨s.key, s.ctr⟩

/-- `1 if eq else 0` (R151). -/
def boolWord (b : Bool) : Word := if b then 1 else 0

/-- EQUALS: the engine's own five words against the five in `ARG[0..4]` (R151). It compares words only and cannot detect
that they are another family's; the host compares `ROUNDS` itself (R153). -/
def execEquals (s : State) : Host.Outcome State Fault Refusal :=
  .next (s.setRes 0 (boolWord (sameIdentityWords s.key s.ctr s.operandKey s.operandCtr))).accept

end Sys2Proof.Machine
end

