-- ==== Sys2Proof/Machine/Info.lean ====
section
/-! DEFINITION. The static information commands MINVAL and MAXVAL (spec 45_info.md R180 to R182). -/

namespace Sys2Proof.Machine

/-- MINVAL: `RES[0] <- 0` (R181). -/
def execMinval (s : State) : Host.Outcome State Fault Refusal := .next (s.setRes 0 0).accept

/-- MAXVAL: `RES[0] <- 2^64 - 1` (R182). -/
def execMaxval (s : State) : Host.Outcome State Fault Refusal := .next (s.setRes 0 maxWord).accept

end Sys2Proof.Machine
end

