-- ==== Sys2Proof/Machine/Seeding.lean ====
section
/-! DEFINITION. The seeding commands SEED, SEED_DEF and SEED_ENT (spec 40_seeding.md R100 to R105). -/

namespace Sys2Proof.Machine

/-- What seeding does once the key words are known: `K <- k`, `CTR <- 0`, and the cache is invalidated (R100). -/
def State.seedWith (s : State) (k : Key) : State := ((s.setKey k).setCtr 0).invalidate

/-- SEED's key words: two constants, `ARG[0]`, `ARG[1]` (R101). -/
def State.seedKey (F : Family) (s : State) : Key := #v[F.key0, F.key1, s.operand 0, s.operand 1]

/-- The default key words (R102, R103). -/
def defaultKey (F : Family) : Key := #v[F.key0, F.key1, F.defSeed, F.defStream]

/-- SEED on an engine of family `F` (R101). -/
def execSeedOf (F : Family) (s : State) : Host.Outcome State Fault Refusal :=
  .next (s.seedWith (s.seedKey F)).accept

/-- SEED_DEF on an engine of family `F` (R102). -/
def execSeedDefOf (F : Family) (s : State) : Host.Outcome State Fault Refusal :=
  .next (s.seedWith (defaultKey F)).accept

/-- SEED (R101). -/
def execSeed (s : State) : Host.Outcome State Fault Refusal := execSeedOf Config.family s

/-- SEED_DEF (R102). -/
def execSeedDef (s : State) : Host.Outcome State Fault Refusal := execSeedDefOf Config.family s

/-- SEED_ENT (R104). -/
def execSeedEnt (s : State) : Host.Outcome State Fault Refusal :=
  .next (s.seedWith s.packedKey).accept

end Sys2Proof.Machine
end

