-- ==== Sys2Proof/Machine/Transfer.lean ====
section
/-! DEFINITION. The state transfer commands SAVE and LOAD (spec 44_state_transfer.md R160 to R162). -/

namespace Sys2Proof.Machine

/-- The five identity words into `RES[0..4]`, in the order of R160 (R161). -/
def State.saveIdentity (s : State) : State :=
  ((((s.setRes 0 s.key[0]).setRes 1 s.key[1]).setRes 2 s.key[2]).setRes 3 s.key[3]).setRes 4 s.ctr

/-- The five identity words from `ARG[0..4]`, all read first, and the cache invalidated (R162). -/
def State.loadIdentity (s : State) : State := ((s.setKey s.operandKey).setCtr s.operandCtr).invalidate

/-- SAVE (R161). -/
def execSave (s : State) : Host.Outcome State Fault Refusal := .next s.saveIdentity.accept

/-- LOAD (R162). -/
def execLoad (s : State) : Host.Outcome State Fault Refusal := .next s.loadIdentity.accept

end Sys2Proof.Machine
end

