-- ==== Sys2Proof/Machine/Dispatch.lean ====
section
/-! DEFINITION. One arm per command (spec 30_encoding.md R71, R72). -/

namespace Sys2Proof.Machine

def exec (i : Instr) (s : State) : Host.Outcome State Fault Refusal :=
  match i with
  | .seed => Sys2Proof.Machine.execSeed s
  | .seedDef => Sys2Proof.Machine.execSeedDef s
  | .seedEnt => Sys2Proof.Machine.execSeedEnt s
  | .next => Sys2Proof.Machine.execNext s
  | .discard => Sys2Proof.Machine.execDiscard s
  | .equals => Sys2Proof.Machine.execEquals s
  | .save => Sys2Proof.Machine.execSave s
  | .load => Sys2Proof.Machine.execLoad s
  | .minval => Sys2Proof.Machine.execMinval s
  | .maxval => Sys2Proof.Machine.execMaxval s

end Sys2Proof.Machine
end

