-- ==== Sys2Proof/Machine/Window.lean ====
section
/-! DEFINITION. The register window: which register stands at which offset, which accesses are supported, and what a
read returns (spec 10_state.md R30 to R36; 20_memory.md R50 to R53, R81). -/

namespace Sys2Proof.Machine

/-- The registers of the window (10_state.md R30). -/
inductive Register
  | cmd
  | status
  | rounds
  | arg (i : Fin 8)
  | res (i : Fin 5)
  | reserved
  deriving DecidableEq, Repr

/-- A supported access: 8 bytes, at a multiple of 8, at or below `0xF8` (20_memory.md R51). -/
def supported (off bytes : Nat) : Bool := bytes == 8 && off % 8 == 0 && decide (off ≤ 0xF8)

/-- The access is supported (R51). -/
def Access.isSupported : Access → Bool
  | .read off bytes => supported off bytes
  | .write off bytes _ => supported off bytes

/-- The register at a supported offset (10_state.md R30). -/
def registerAt (off : Nat) : Register :=
  if off = 0x00 then .cmd
  else if off = 0x08 then .status
  else if off = 0x10 then .rounds
  else if h : 0x40 ≤ off ∧ off ≤ 0x78 then .arg ⟨(off - 0x40) / 8, by omega⟩
  else if h : 0x80 ≤ off ∧ off ≤ 0xA0 then .res ⟨(off - 0x80) / 8, by omega⟩
  else .reserved

/-- The offset of `ARG[i]` (R30, R78). -/
def argOffset (i : Fin 8) : Nat := 0x40 + 8 * i

/-- The offset of `RES[i]` (R30, R78). -/
def resOffset (i : Fin 5) : Nat := 0x80 + 8 * i

/-- The offset of `CMD` (R30). -/
def cmdOffset : Nat := 0x00

/-- The offset of `STATUS` (R30). -/
def statusOffset : Nat := 0x08

/-- The offset of `ROUNDS` (R30). -/
def roundsOffset : Nat := 0x10

/-- What a read of a register returns; a read changes no state (20_memory.md R52; 10_state.md R31 to R36). -/
def readRegister (F : Family) (s : State) : Register → Word
  | .cmd => 0
  | .status => s.status
  | .rounds => F.rounds.setWidth 64
  | .arg i => s.arg[i]
  | .res i => s.res[i]
  | .reserved => 0

end Sys2Proof.Machine
end

