-- ==== Sys2Proof/Machine/Port.lean ====
section
/-! DEFINITION. The register port: executing a command word, one host access, one event
(spec 30_encoding.md R71; 20_memory.md R51 to R56; 70_reset_and_hazards.md R230). -/

namespace Sys2Proof.Machine

/-- What a command does on an engine: `exec` for the engine of this build, `execOf F` for one of another family. -/
abbrev Commands := Instr → State → Host.Outcome State Fault Refusal

/-- `Execute(v)` with the commands `run`: decode and perform a command, or take the command error; one atomic step
(30_encoding.md R71). -/
def executeWith (run : Commands) (v : Word) (s : State) : Host.Outcome State Fault Refusal :=
  match decode v with
  | .ok i => run i s
  | .error e => .next (s.commandError e)

/-- `MemWrite(off, 8, v)` on the register at a supported offset: CMD executes, ARG takes the value, the rest ignore it
(20_memory.md R53). -/
def writeRegisterWith (run : Commands) (r : Register) (v : Word) (s : State) : Host.Outcome State Fault Refusal :=
  match r with
  | .cmd => executeWith run v s
  | .arg i => .next (s.setArg i v)
  | .status => .next s
  | .rounds => .next s
  | .res _ => .next s
  | .reserved => .next s

/-- One access of host number `h` to an engine of family `F` with the commands `run` (20_memory.md R51 to R53). Every host
may make every access, so `h` only says who gets the value read (60_exceptions.md R210). -/
def portAccessWith (F : Family) (run : Commands) (h : Nat) (a : Access) (s : State) :
    Host.Outcome State Fault Refusal :=
  match a with
  | .read off bytes =>
    if supported off bytes then .next (s.respond ⟨h, off, readRegister F s (registerAt off)⟩)
    else .fault (.unsupportedAccess off bytes)
  | .write off bytes v =>
    if supported off bytes then writeRegisterWith run (registerAt off) v s
    else .fault (.unsupportedAccess off bytes)

/-- `Execute(v)` on the engine of this build (30_encoding.md R71). -/
def executeWord (v : Word) (s : State) : Host.Outcome State Fault Refusal := executeWith exec v s

/-- One access of host number `h` to the engine of this build (20_memory.md R51 to R53). -/
def portAccess (h : Nat) (a : Access) (s : State) : Host.Outcome State Fault Refusal :=
  portAccessWith Config.family exec h a s

/-- One event of the port's total order (20_memory.md R55; 70_reset_and_hazards.md R230). -/
def portEvent (e : PortEvent) (s : State) : Host.Outcome State Fault Refusal :=
  match e with
  | .access h a => portAccess h a s
  | .reset => .next s.applyReset

/-- The next event reaches the port; with none pending nothing happens (notes/assumptions/2.md). -/
def portStep (s : State) : Host.Outcome State Fault Refusal :=
  match s.pending with
  | [] => .next s
  | e :: rest => portEvent e (s.setPending rest)

/-- A host's write of a command word to CMD. -/
def commandWrite (h : Nat) (v : Word) : PortEvent := .access h (.write cmdOffset 8 v)

end Sys2Proof.Machine
end

