-- ==== Sys2Proof/Machine/Step.lean ====
section
/-! DEFINITION. The step of the machine (spec 20_memory.md R55) and the placing of a command word for it. -/

namespace Sys2Proof.Machine

/-- One step: the first pending event reaches the port and is performed whole (R55). -/
def step (s : State) : Host.Outcome State Fault Refusal := portStep s

/-- `s` with host 0's write of the word to CMD placed before every pending event: the very next step executes that
command word. The engine fetches nothing (R61), so this write IS how a command reaches it (notes/assumptions/6.md). -/
def State.withFetchWord (s : State) (nbits w : Nat) : State :=
  s.setPending (commandWrite 0 (BitVec.ofNat 64 (w % 2 ^ nbits)) :: s.pending)

end Sys2Proof.Machine
end

