-- ==== Sys2Proof/Machine/Codec.lean ====
section
/-! DEFINITION. The text form of the identity words: encoder and parser, a host-side codec
(spec 44_state_transfer.md R160, R164 to R167; 60_exceptions.md R200). -/

namespace Sys2Proof.Machine

/-- A finite character string. -/
abbrev Text := List Char

/-- The five identity words, in the order key word 0, 1, 2, 3, `ctr` (R160). -/
abbrev IdentityWords := Vector Word 5

/-- Why a text does not parse (R166, R200): a result of the host's codec, not an error of the engine. -/
inductive ParseError
  /-- A missing or extra field, a non-digit token, a sign, junk. -/
  | malformed
  /-- A numeral above `2^64 - 1`. -/
  | outOfRange
  deriving DecidableEq, Repr

/-- The character of a digit `0 .. 9`, `0x30 + d` (R164). -/
def digitChar (d : Nat) : Char := Char.ofNat (0x30 + d)

/-- A character of `'0'..'9'` (R164). -/
def isDigit (c : Char) : Bool := decide (0x30 ≤ c.toNat ∧ c.toNat ≤ 0x39)

/-- The value of a digit character. -/
def digitValue (c : Char) : Nat := c.toNat - 0x30

/-- The whitespace set `WS` of the parser (R164). -/
def isSpace (c : Char) : Bool :=
  c.toNat == 0x20 || c.toNat == 0x09 || c.toNat == 0x0A || c.toNat == 0x0B || c.toNat == 0x0C || c.toNat == 0x0D

/-- The digits of `n` without leading zeros, put before `acc`; `fuel` bounds their number. -/
def decimalDigits : Nat → Nat → Text → Text
  | 0, _, acc => acc
  | fuel + 1, n, acc =>
    if n < 10 then digitChar n :: acc else decimalDigits fuel (n / 10) (digitChar (n % 10) :: acc)

/-- `Dec(v)`: the shortest decimal numeral, most significant digit first; a `u64` has at most 20 digits (R165). -/
def decimal (v : Word) : Text := decimalDigits 20 v.toNat []

/-- `Encode(w)`: five decimal numerals with single spaces between them (R165). -/
def encodeText (w : IdentityWords) : Text :=
  decimal w[0] ++ ' ' :: decimal w[1] ++ ' ' :: decimal w[2] ++ ' ' :: decimal w[3] ++ ' ' :: decimal w[4]

/-- The value of a run of digits, most significant first; leading zeros are allowed (R166). -/
def decimalValue (t : Text) : Nat := t.foldl (fun n c => 10 * n + digitValue c) 0

/-- One field: skip whitespace, take the longest run of digits, check it (R166). -/
def parseField (t : Text) : Except ParseError (Word × Text) :=
  let u := t.dropWhile isSpace
  let digits := u.takeWhile isDigit
  if digits = [] then .error .malformed
  else if decimalValue digits > 2 ^ 64 - 1 then .error .outOfRange
  else .ok (BitVec.ofNat 64 (decimalValue digits), u.dropWhile isDigit)

/-- `n` fields one after another, and the text after them (R166). -/
def parseFields : Nat → Text → Except ParseError (List Word × Text)
  | 0, t => .ok ([], t)
  | n + 1, t =>
    match parseField t with
    | .error e => .error e
    | .ok (v, u) =>
      match parseFields n u with
      | .error e => .error e
      | .ok (vs, r) => .ok (v :: vs, r)

/-- `Parse(t)`: five fields, then whitespace, then the end of the text (R166). -/
def parseText (t : Text) : Except ParseError IdentityWords :=
  match parseFields 5 t with
  | .error e => .error e
  | .ok (vs, r) =>
    if r.dropWhile isSpace = [] then
      match vs with
      | [k0, k1, k2, k3, c] => .ok #v[k0, k1, k2, k3, c]
      | _ => .error .malformed
    else .error .malformed

end Sys2Proof.Machine
end

