-- ==== Sys2Proof/Machine/Engine.lean ====
section
/-! DEFINITION. Engines typed by their family: commands, accesses, reset, identity and `Equal`
(spec 00_scope.md R10, R11; 43_equality.md R150, R153; 60_exceptions.md R213). -/

namespace Sys2Proof.Machine

/-- The commands of an engine of family `F`: the meanings of `exec`, with the constants and the round count of `F` where a
command reads them (00_scope.md R11, R19). `execOf_family` in Laws/Engine.lean says that `exec` is these for this build. -/
def execOf (F : Family) (i : Instr) (s : State) : Host.Outcome State Fault Refusal :=
  match i with
  | .seed => execSeedOf F s
  | .seedDef => execSeedDefOf F s
  | .seedEnt => execSeedEnt s
  | .next => execNextOf F s
  | .discard => execDiscard s
  | .equals => execEquals s
  | .save => execSave s
  | .load => execLoad s
  | .minval => execMinval s
  | .maxval => execMaxval s

/-- One access of host number `h` to an engine of family `F` (20_memory.md R51 to R53). -/
def portAccessOf (F : Family) (h : Nat) (a : Access) (s : State) : Host.Outcome State Fault Refusal :=
  portAccessWith F (execOf F) h a s

/-- What a function makes of a next state; a fault and a refusal stay. -/
def mapNext {α β : Type} (f : α → β) : Host.Outcome α Fault Refusal → Host.Outcome β Fault Refusal
  | .next t => .next (f t)
  | .fault e => .fault e
  | .refused r => .refused r

/-- An engine of family `F`. Engines of two families have two types, since two values of `R`, or of the constants, make
two families that are never interoperable (00_scope.md R10, R11). The machine of `step` is one of `Config.family`. -/
structure Engine (F : Family) where
  state : State
  deriving DecidableEq, Repr

/-- The engine right after a reset that draws free values from number `n` on (10_state.md R43). -/
def Engine.resetFrom (F : Family) (n : Nat) : Engine F := ⟨State.resetFrom F n⟩

/-- A reset of the engine, by its own family (70_reset_and_hazards.md R230). -/
def Engine.reset {F : Family} (e : Engine F) (n : Nat) : Engine F := ⟨e.state.resetEngine F n⟩

/-- One access of host number `h` to the engine (20_memory.md R51 to R53). -/
def Engine.access {F : Family} (e : Engine F) (h : Nat) (a : Access) : Host.Outcome (Engine F) Fault Refusal :=
  mapNext Engine.mk (portAccessOf F h a e.state)

/-- The identity of the engine (10_state.md R27). -/
def Engine.identity {F : Family} (e : Engine F) : Identity F := ⟨e.state.key, e.state.ctr⟩

/-- `Equal(S1, S2)`, for two engines of the same family; for two of different families it does not type
(43_equality.md R150, R153). -/
def Engine.equal {F : Family} (d e : Engine F) : Bool := equalIdentity d.identity e.identity

end Sys2Proof.Machine
end

