-- ==== Sys2Proof/Machine/HostProcedures.lean ====
section
/-! DEFINITION. What a host does with the port: sequences of accesses, drawing and skipping, Serialize and Deserialize
(spec 20_memory.md R55, R60; 30_encoding.md R79; 42_draw.md R137, R138; 44_state_transfer.md R168, R169). -/

namespace Sys2Proof.Machine

/-- Events one after another, stopping at the first that does not give a next state (20_memory.md R55). -/
def runEvents : List PortEvent → State → Host.Outcome State Fault Refusal
  | [], s => .next s
  | e :: es, s =>
    match portEvent e s with
    | .next t => runEvents es t
    | .fault f => .fault f
    | .refused r => .refused r

/-- Accesses of one host, with no other host's access between them (R168; 70_reset_and_hazards.md R243). -/
def runAccesses (h : Nat) (as : List Access) (s : State) : Host.Outcome State Fault Refusal :=
  runEvents (as.map (PortEvent.access h)) s

/-- A host's accesses among the events of the port, in its own order: `es` is an interleaving of the programs `p 0`,
`p 1`, … of the hosts exactly when `accessesOf h es = p h` for each (20_memory.md R60). -/
def accessesOf (h : Nat) : List PortEvent → List Access
  | [] => []
  | .access g a :: es => if g = h then a :: accessesOf h es else accessesOf h es
  | .reset :: es => accessesOf h es

/-- The same event with its host renumbered. -/
def PortEvent.relabel (f : Nat → Nat) : PortEvent → PortEvent
  | .access h a => .access (f h) a
  | .reset => .reset

/-- Commands one after another. -/
def runCommands : List Instr → State → Host.Outcome State Fault Refusal
  | [], s => .next s
  | i :: is, s =>
    match exec i s with
    | .next t => runCommands is t
    | .fault f => .fault f
    | .refused r => .refused r

/-- The write of a command word to CMD. -/
def commandAccess (i : Instr) : Access := .write cmdOffset 8 (encode i)

/-- A write of `ARG[i]`. -/
def argWrite (i : Fin 8) (v : Word) : Access := .write (argOffset i) 8 v

/-- A read of `RES[i]`. -/
def resRead (i : Fin 5) : Access := .read (resOffset i) 8

/-- The two operations that move the counter (42_draw.md R138). -/
inductive StreamOp
  /-- Draw a word and read it: the pseudo-instruction DRAW (30_encoding.md R79). -/
  | draw
  /-- Skip `n` words: the pseudo-instruction DISCARD n (R79). -/
  | skip (n : Word)
  deriving DecidableEq, Repr

/-- The accesses of a stream operation (30_encoding.md R79). -/
def StreamOp.accesses : StreamOp → List Access
  | .draw => [commandAccess .next, resRead 0]
  | .skip n => [argWrite 0 n, commandAccess .discard]

/-- The words a sequence of stream operations draws from key material `k` at counter `c` (42_draw.md R138). -/
def streamWords (F : Family) (k : Key) : Word → List StreamOp → List Word
  | _, [] => []
  | c, .draw :: ops => streamWord F k c :: streamWords F k (c + 1) ops
  | c, .skip n :: ops => streamWords F k (c + n) ops

/-- The counter after a sequence of stream operations: words drawn or skipped, modulo `2^64` (10_state.md R22). -/
def streamCtr : Word → List StreamOp → Word
  | c, [] => c
  | c, .draw :: ops => streamCtr (c + 1) ops
  | c, .skip n :: ops => streamCtr (c + n) ops

/-- A host performs stream operations one after another. -/
def runStream (h : Nat) (ops : List StreamOp) (s : State) : Host.Outcome State Fault Refusal :=
  runAccesses h (ops.flatMap StreamOp.accesses) s

/-- The accesses of Serialize: SAVE, then RES0 to RES4 (R168). -/
def serializeAccesses : List Access :=
  [commandAccess .save, resRead 0, resRead 1, resRead 2, resRead 3, resRead 4]

/-- The values given to hosts between two states of a run. -/
def newValues (s t : State) : List Word := (t.responses.drop s.responses.length).map (·.value)

/-- Accesses of host `h` to an engine of family `F`, one after another, with no other host's access between them. -/
def runAccessesOf (F : Family) (h : Nat) : List Access → State → Host.Outcome State Fault Refusal
  | [], s => .next s
  | a :: as, s =>
    match portAccessOf F h a s with
    | .next t => runAccessesOf F h as t
    | .fault f => .fault f
    | .refused r => .refused r

/-- A host performs stream operations on an engine of family `F`, one after another. -/
def runStreamOf (F : Family) (h : Nat) (ops : List StreamOp) (s : State) : Host.Outcome State Fault Refusal :=
  runAccessesOf F h (ops.flatMap StreamOp.accesses) s

/-- The saved state of an engine of family `F`, in its text form. The text itself carries no mark of the family: keeping
families apart is the host's duty, and to call a text the saved state of family `F` is the host's claim
(44_state_transfer.md R170). -/
structure SavedText (F : Family) where
  text : Text
  deriving DecidableEq, Repr

/-- `Serialize` with the accesses performed by `run`: perform SAVE, read RES0 to RES4, encode (R168). `none` where the
accesses do not run to their end. -/
def serializeWith (F : Family) (run : List Access → State → Host.Outcome State Fault Refusal) (s : State) :
    Option (State × SavedText F) :=
  match run serializeAccesses s with
  | .next t =>
    match newValues s t with
    | [r0, r1, r2, r3, r4] => some (t, ⟨encodeText #v[r0, r1, r2, r3, r4]⟩)
    | _ => none
  | .fault _ => none
  | .refused _ => none

/-- `Serialize` of the machine of `step` (R168). -/
def serialize (h : Nat) (s : State) : Option (State × SavedText Config.family) :=
  serializeWith Config.family (runAccesses h) s

/-- `Serialize` of an engine of any family (R168, R170). -/
def Engine.serialize {F : Family} (e : Engine F) (h : Nat) : Option (Engine F × SavedText F) :=
  (serializeWith F (runAccessesOf F h) e.state).map fun r => (⟨r.1⟩, r.2)

/-- The accesses of a successful Deserialize: ARG0 to ARG4, then LOAD (R169). -/
def loadAccesses (w : IdentityWords) : List Access :=
  [argWrite 0 w[0], argWrite 1 w[1], argWrite 2 w[2], argWrite 3 w[3], argWrite 4 w[4], commandAccess .load]

/-- `Deserialize` with the accesses performed by `run`: parse the whole text first; on success write ARG0 to ARG4 and issue
LOAD, on failure make no access and report the parse error (R169). -/
def deserializeWith {F : Family} (run : List Access → State → Host.Outcome State Fault Refusal) (t : SavedText F)
    (s : State) : Except ParseError (Host.Outcome State Fault Refusal) :=
  match parseText t.text with
  | .error e => .error e
  | .ok w => .ok (run (loadAccesses w) s)

/-- `Deserialize` on the machine of `step`, of a saved state of its family (R169, R170). -/
def deserialize (h : Nat) (t : SavedText Config.family) (s : State) :
    Except ParseError (Host.Outcome State Fault Refusal) :=
  deserializeWith (runAccesses h) t s

/-- `Deserialize` on an engine of any family, of a saved state of the same family; one of another family does not type
(R169, R170). -/
def Engine.deserialize {F : Family} (e : Engine F) (h : Nat) (t : SavedText F) :
    Except ParseError (Host.Outcome (Engine F) Fault Refusal) :=
  match deserializeWith (runAccessesOf F h) t e.state with
  | .error x => .error x
  | .ok o => .ok (mapNext Engine.mk o)

end Sys2Proof.Machine
end

