-- ==== Sys2Proof/Machine/Asm.lean ====
section
/-! DEFINITION. Host assembly: lines, their expansion into accesses, and their text
(spec 30_encoding.md R78 to R80; notes/assumptions/12.md). -/

namespace Sys2Proof.Machine

/-- One line of host assembly (R78, R79). -/
inductive AsmLine
  /-- A blank line or a comment. -/
  | empty
  /-- `WR <reg>, <imm>`: the register by its offset. -/
  | wr (off imm : Nat)
  /-- `RD <reg>`. -/
  | rd (off : Nat)
  /-- A bare command mnemonic. -/
  | bare (i : Instr)
  /-- A command mnemonic with operands. -/
  | pseudo (i : Instr) (ops : List Nat)
  /-- `DRAW`. -/
  | draw
  deriving DecidableEq, Repr

/-- Why an assembler rejects a line; the spec names the checks, the model names the reasons (notes/assumptions/12.md). -/
inductive AsmError
  /-- The first word of the line is no operation. -/
  | unknownMnemonic
  /-- The register operand of WR or RD names no register. -/
  | badRegister
  /-- A numeric literal is neither decimal nor hexadecimal. -/
  | badLiteral
  /-- A numeric literal lies above `2^64 - 1` (R78). -/
  | literalOutOfRange
  /-- The wrong number of operands (R79). -/
  | wrongOperandCount
  /-- A `SEED_ENT` operand of `2^32` or more (R79). -/
  | entropyOutOfRange
  deriving DecidableEq, Repr

/-- Operands written to `ARG[i]`, `ARG[i+1]`, … in the listed order (R79). -/
def argWrites : Nat → List Nat → List Access
  | _, [] => []
  | i, v :: vs => .write (0x40 + 8 * i) 8 (BitVec.ofNat 64 v) :: argWrites (i + 1) vs

/-- The accesses of a line (R78, R79). -/
def expandLine : AsmLine → Except AsmError (List Access)
  | .empty => .ok []
  | .wr off imm =>
    if imm < 2 ^ 64 then .ok [.write off 8 (BitVec.ofNat 64 imm)] else .error .literalOutOfRange
  | .rd off => .ok [.read off 8]
  | .bare i => .ok [commandAccess i]
  | .pseudo i ops =>
    if operandCountWellFormed i ops then
      if operandRangeWellFormed ops then
        if entropyRangeWellFormed i ops then .ok (argWrites 0 ops ++ [commandAccess i])
        else .error .entropyOutOfRange
      else .error .literalOutOfRange
    else .error .wrongOperandCount
  | .draw => .ok [commandAccess .next, resRead 0]

/-- A blank inside a line. -/
def isBlank (c : Char) : Bool := c.toNat == 0x20 || c.toNat == 0x09 || c.toNat == 0x0D

/-- Mnemonics and register names are case-insensitive (R78): lower-case letters become capitals. -/
def upperChar (c : Char) : Char := if 0x61 ≤ c.toNat ∧ c.toNat ≤ 0x7A then Char.ofNat (c.toNat - 0x20) else c

/-- A piece of text without the blanks around it. -/
def trimBlanks (t : Text) : Text := ((t.dropWhile isBlank).reverse.dropWhile isBlank).reverse

/-- The pieces of a text between the separators `sep`. -/
def splitAtChar (sep : Char) : Text → List Text
  | [] => [[]]
  | c :: cs =>
    if c = sep then [] :: splitAtChar sep cs
    else
      match splitAtChar sep cs with
      | [] => [[c]]
      | p :: ps => (c :: p) :: ps

/-- A hexadecimal digit (R78). -/
def hexValue (c : Char) : Option Nat :=
  if 0x30 ≤ c.toNat ∧ c.toNat ≤ 0x39 then some (c.toNat - 0x30)
  else if 0x61 ≤ c.toNat ∧ c.toNat ≤ 0x66 then some (c.toNat - 0x61 + 10)
  else if 0x41 ≤ c.toNat ∧ c.toNat ≤ 0x46 then some (c.toNat - 0x41 + 10)
  else none

/-- The value of a run of hexadecimal digits. -/
def hexNumber : Nat → Text → Option Nat
  | n, [] => some n
  | n, c :: cs =>
    match hexValue c with
    | some d => hexNumber (16 * n + d) cs
    | none => none

/-- A decimal or hexadecimal literal in `0 .. 2^64-1` (R78). -/
def parseLiteral (t : Text) : Except AsmError Nat :=
  let number :=
    match t with
    | [] => none
    | '0' :: 'x' :: c :: cs => hexNumber 0 (c :: cs)
    | ds => if ds.all isDigit then some (decimalValue ds) else none
  match number with
  | none => .error .badLiteral
  | some n => if n < 2 ^ 64 then .ok n else .error .literalOutOfRange

/-- The register names of R78 with their offsets. -/
def registerNames : List (Text × Nat) :=
  [ (['C', 'M', 'D'], 0x00), (['S', 'T', 'A', 'T', 'U', 'S'], 0x08), (['R', 'O', 'U', 'N', 'D', 'S'], 0x10),
    (['A', 'R', 'G', '0'], 0x40), (['A', 'R', 'G', '1'], 0x48), (['A', 'R', 'G', '2'], 0x50),
    (['A', 'R', 'G', '3'], 0x58), (['A', 'R', 'G', '4'], 0x60), (['A', 'R', 'G', '5'], 0x68),
    (['A', 'R', 'G', '6'], 0x70), (['A', 'R', 'G', '7'], 0x78),
    (['R', 'E', 'S', '0'], 0x80), (['R', 'E', 'S', '1'], 0x88), (['R', 'E', 'S', '2'], 0x90),
    (['R', 'E', 'S', '3'], 0x98), (['R', 'E', 'S', '4'], 0xA0) ]

/-- The command mnemonics of R72. -/
def mnemonics : List (Text × Instr) :=
  [ (['S', 'E', 'E', 'D'], .seed), (['S', 'E', 'E', 'D', '_', 'D', 'E', 'F'], .seedDef),
    (['S', 'E', 'E', 'D', '_', 'E', 'N', 'T'], .seedEnt), (['N', 'E', 'X', 'T'], .next),
    (['D', 'I', 'S', 'C', 'A', 'R', 'D'], .discard), (['E', 'Q', 'U', 'A', 'L', 'S'], .equals),
    (['S', 'A', 'V', 'E'], .save), (['L', 'O', 'A', 'D'], .load),
    (['M', 'I', 'N', 'V', 'A', 'L'], .minval), (['M', 'A', 'X', 'V', 'A', 'L'], .maxval) ]

/-- The entry of a name in a table of names. -/
def lookupName {α : Type} (t : Text) (table : List (Text × α)) : Option α :=
  (table.find? fun row => row.1 == t.map upperChar).map (·.2)

/-- The register operand of WR and RD: a name of R78, or an offset written as a literal (95_test_vectors.md V-ACC-3). -/
def parseRegister (t : Text) : Except AsmError Nat :=
  match lookupName t registerNames with
  | some off => .ok off
  | none =>
    match parseLiteral t with
    | .ok off => .ok off
    | .error _ => .error .badRegister

/-- All operands of a pseudo-instruction, in order. -/
def parseLiterals : List Text → Except AsmError (List Nat)
  | [] => .ok []
  | t :: ts =>
    match parseLiteral t with
    | .error e => .error e
    | .ok n =>
      match parseLiterals ts with
      | .error e => .error e
      | .ok ns => .ok (n :: ns)

/-- The operands after a mnemonic: none for a blank rest, else the pieces between the commas. -/
def operandTexts (t : Text) : List Text := if trimBlanks t = [] then [] else (splitAtChar ',' t).map trimBlanks

/-- A line by its mnemonic and operands (R78, R79). -/
def parseOperation (name : Text) (ops : List Text) : Except AsmError AsmLine :=
  if name.map upperChar = ['W', 'R'] then
    match ops with
    | [r, v] =>
      match parseRegister r with
      | .error e => .error e
      | .ok off =>
        match parseLiteral v with
        | .error e => .error e
        | .ok n => .ok (.wr off n)
    | _ => .error .wrongOperandCount
  else if name.map upperChar = ['R', 'D'] then
    match ops with
    | [r] =>
      match parseRegister r with
      | .error e => .error e
      | .ok off => .ok (.rd off)
    | _ => .error .wrongOperandCount
  else if name.map upperChar = ['D', 'R', 'A', 'W'] then
    match ops with
    | [] => .ok .draw
    | _ => .error .wrongOperandCount
  else
    match lookupName name mnemonics with
    | none => .error .unknownMnemonic
    | some i =>
      match ops with
      | [] => .ok (.bare i)
      | _ =>
        match parseLiterals ops with
        | .error e => .error e
        | .ok ns => .ok (.pseudo i ns)

/-- One line of text: `;` starts a comment that runs to the end of the line (R78). -/
def parseLine (t : Text) : Except AsmError AsmLine :=
  let u := (t.takeWhile (· != ';')).dropWhile isBlank
  let name := u.takeWhile fun c => !isBlank c
  if name = [] then .ok .empty else parseOperation name (operandTexts (u.dropWhile fun c => !isBlank c))

/-- Lines one after another. -/
def assembleLines : List Text → Except AsmError (List Access)
  | [] => .ok []
  | l :: ls =>
    match parseLine l with
    | .error e => .error e
    | .ok line =>
      match expandLine line with
      | .error e => .error e
      | .ok as =>
        match assembleLines ls with
        | .error e => .error e
        | .ok bs => .ok (as ++ bs)

/-- A program text becomes the sequence of its accesses after expansion (R80). -/
def assemble (t : Text) : Except AsmError (List Access) := assembleLines (splitAtChar '\n' t)

end Sys2Proof.Machine
end

