-- ==== Sys2Proof/Machine/Platform.lean ====
section
/-! DEFINITION. Where engines stand in a host's address space, several engines, and byte lanes
(spec 20_memory.md R50, R54; 30_encoding.md R81; 60_exceptions.md R213; 70_reset_and_hazards.md R230). -/

namespace Sys2Proof.Machine

/-- The size of the register window (10_state.md R30). -/
def windowSize : Nat := 256

/-- The platform address of an offset, `base + off` (30_encoding.md R81). -/
def platformAddress (base off : Nat) : Nat := base + off

/-- The offset of a platform address in the window at `base`, if it lies there. -/
def windowOffset (base addr : Nat) : Option Nat :=
  if base ≤ addr ∧ addr < base + windowSize then some (addr - base) else none

/-- The platform address of a register of the engine at `P_BASE` (20_memory.md R50). -/
def registerAddress (off : Nat) : Nat := platformAddress Config.pBase off

/-- One engine at its base address. Each has its own state, and its own family parameters, which others may share or not
(60_exceptions.md R213). -/
structure PlacedEngine where
  base : Nat
  family : Family
  engine : Engine family
  deriving DecidableEq, Repr

/-- The engines of a platform; they have no identifier but their base (60_exceptions.md R213). -/
abbrev Platform := List PlacedEngine

/-- An access with its place moved to another one. -/
def Access.relocate (a : Access) (off : Nat) : Access :=
  match a with
  | .read _ bytes => .read off bytes
  | .write _ bytes v => .write off bytes v

/-- The place an access names. -/
def Access.place : Access → Nat
  | .read off _ => off
  | .write off _ _ => off

/-- An access of host `h` by platform address: the first engine whose window holds the address performs it at its own
offset, the others share nothing with it (60_exceptions.md R213); an address in no window reaches no engine
(notes/assumptions/16.md). -/
def platformAccess (h : Nat) (a : Access) : Platform → Host.Outcome Platform Fault Refusal
  | [] => .next []
  | p :: ps =>
    match windowOffset p.base a.place with
    | some off => mapNext (fun t => { p with engine := t } :: ps) (p.engine.access h (a.relocate off))
    | none => mapNext (fun qs => p :: qs) (platformAccess h a ps)

/-- Engines at the given bases and of the given families, each from reset (60_exceptions.md R213), with free values from
number `n` on, no number used twice. -/
def startPlatform : Nat → List (Nat × Family) → Platform
  | _, [] => []
  | n, (base, F) :: rest => ⟨base, F, Engine.resetFrom F n⟩ :: startPlatform (n + 16) rest

/-- A number from which on no engine has drawn a free value. -/
def freshFrom : Platform → Nat
  | [] => 0
  | p :: ps => max p.engine.state.freeNext (freshFrom ps)

/-- The reset of the engine at a base, by its own family; the others keep their states (60_exceptions.md R213;
70_reset_and_hazards.md R230). A base at which no engine stands resets none (notes/assumptions/16.md). -/
def resetAt (base n : Nat) : Platform → Platform
  | [] => []
  | p :: ps => if p.base = base then { p with engine := p.engine.reset n } :: ps else p :: resetAt base n ps

/-- One event on a platform. -/
inductive PlatformEvent
  /-- Host number `host` makes an access by platform address (20_memory.md R50, R60). -/
  | access (host : Nat) (a : Access)
  /-- The platform resets the engine at a base, or its power is lost (60_exceptions.md R213, R215). -/
  | reset (base : Nat)
  deriving DecidableEq, Repr

/-- What an event does to the engines of a platform. -/
def platformEvent (e : PlatformEvent) (ps : Platform) : Host.Outcome Platform Fault Refusal :=
  match e with
  | .access h a => platformAccess h a ps
  | .reset base => .next (resetAt base (freshFrom ps) ps)

/-- Events on a platform one after another, stopping at the first that does not give a next platform. -/
def runPlatform : List PlatformEvent → Platform → Host.Outcome Platform Fault Refusal
  | [], ps => .next ps
  | e :: es, ps =>
    match platformEvent e ps with
    | .next qs => runPlatform es qs
    | .fault f => .fault f
    | .refused r => .refused r

/-- The byte of a 64-bit value that a lane of a narrower bus carries, by the platform's `P_LANES` (20_memory.md R54). -/
def laneByte (v : Word) (lane : Fin 8) : BitVec 8 := v.extractLsb' (8 * Config.pLanes lane) 8

end Sys2Proof.Machine
end

