-- ==== Sys2Proof/Safety.lean ====
section
/-! DEFINITION. What the engine promises of every state between commands, and what a safe run is
(spec 10_state.md R25, R26, R33; 60_exceptions.md R216; 70_reset_and_hazards.md R250). -/

namespace Sys2Proof.Machine

/-- The cache invariant (10_state.md R26). -/
def CacheValid (F : Family) (s : State) : Prop := s.cidx ≠ sentinel → s.cache = block F s.key s.cidx

/-- `CIDX` is the sentinel or a block index, at most `2^60 - 1` (R25). -/
def CidxLegal (s : State) : Prop := s.cidx = sentinel ∨ s.cidx.toNat < 2 ^ 60

/-- `STATUS` is one of its three values: accepted, `ILLEGAL_OPCODE`, `RESERVED_BITS` (R33; 60_exceptions.md R200). -/
def StatusLegal (s : State) : Prop := s.status = 0 ∨ s.status = 0x101 ∨ s.status = 0x201

/-- Every piece of the engine's state has the reset value of family `F`; of CACHE nothing is said (R43). -/
structure HasResetValues (F : Family) (s : State) : Prop where
  key : s.key = #v[F.key0, F.key1, F.defSeed, F.defStream]
  ctr : s.ctr = 0
  cidx : s.cidx = 0xFFFFFFFFFFFFFFFF
  arg : ∀ i : Fin 8, s.arg[i] = 0
  res : ∀ i : Fin 5, s.res[i] = 0
  status : s.status = 0
  permutes : s.permutes = []

/-- The only events that can fault are unsupported accesses (60_exceptions.md R216). -/
def PortEvent.isSupported : PortEvent → Bool
  | .access _ a => a.isSupported
  | .reset => true

/-- Every pending event is supported: what a host must keep to (70_reset_and_hazards.md R250). -/
def PendingSupported (s : State) : Prop := ∀ e ∈ s.pending, e.isSupported = true

/-- A safe run: `n` steps from `s` give a next state. -/
def RunsSafely (n : Nat) (s : State) : Prop := ∃ t, Sys2Proof.core.run n s = .next t

/-- Two states that differ at most in the cache, its index, the PERMUTE history and the free values: what no host read
can tell apart (10_state.md R28, R42). -/
structure SameVisible (s t : State) : Prop where
  key : s.key = t.key
  ctr : s.ctr = t.ctr
  status : s.status = t.status
  arg : s.arg = t.arg
  res : s.res = t.res
  pending : s.pending = t.pending
  responses : s.responses = t.responses

end Sys2Proof.Machine
end

