-- ==== Sys2Proof/Certificates/Slice0/Obligations.lean ====
section
/-! DEFINITION. The statements about this model, for the provers. Each docstring names the rule of spec/ it formalises. -/

open Sys2Proof Sys2Proof.Machine

/-! ### Encoding -/

/-- The ten command words of the opcode map, as the table writes them, decode to their commands (30_encoding.md, section 2). -/
def Obligations.TableWordsDecodeToTheirCommands : Prop :=
  decode 0x0000000000000001 = .ok .seed ∧ decode 0x0000000000000002 = .ok .seedDef ∧
  decode 0x0000000000000003 = .ok .seedEnt ∧ decode 0x0000000000000010 = .ok .next ∧
  decode 0x0000000000000011 = .ok .discard ∧ decode 0x0000000000000020 = .ok .equals ∧
  decode 0x0000000000000030 = .ok .save ∧ decode 0x0000000000000031 = .ok .load ∧
  decode 0x0000000000000040 = .ok .minval ∧ decode 0x0000000000000041 = .ok .maxval

/-- Decode and encode agree on all 2^64 words: a word decodes to a command exactly when it is that command's word
(30_encoding.md, section 2: all 64 bits are compared). -/
def Obligations.WordDecodesOnlyToTheCommandItEncodes : Prop :=
  ∀ (w : Word) (i : Instr), decode w = .ok i ↔ w = encode i

/-- 30_encoding.md, section 3: which words are rejected, and with which error; the reserved bits are checked first. -/
def Obligations.RejectedWordsAreExactlyTheIllegalOnes : Prop :=
  ∀ w : Word,
    (decode w = .error .reservedBits ↔ w >>> 8 ≠ 0) ∧
    (decode w = .error .illegalOpcode ↔
      w.toNat < 256 ∧
      w.toNat ∉ [0x01, 0x02, 0x03, 0x10, 0x11, 0x20, 0x30, 0x31, 0x40, 0x41])

/-- R71: what a write of `v` to CMD performs; whatever the command, an accepted one leaves STATUS 0. -/
def Obligations.ExecuteDispatchesOnTheCommandWord : Prop :=
  (∀ (v : Word) (i : Instr) (s : State), decode v = .ok i → ∃ t, executeWord v s = .next t ∧ t.status = 0) ∧
  ∀ (v : Word) (s : State),
    executeWord v s =
      if v >>> 8 ≠ 0 then .next { s with status := 0x201 }
      else if v = 0x01 then exec .seed s
      else if v = 0x02 then exec .seedDef s
      else if v = 0x03 then exec .seedEnt s
      else if v = 0x10 then exec .next s
      else if v = 0x11 then exec .discard s
      else if v = 0x20 then exec .equals s
      else if v = 0x30 then exec .save s
      else if v = 0x31 then exec .load s
      else if v = 0x40 then exec .minval s
      else if v = 0x41 then exec .maxval s
      else .next { s with status := 0x101 }

/-! ### Seeding -/

/-- R101: SEED completes on every state, with its command word, its effect and its whole frame. -/
def Obligations.SeedWritesTheConstantsAndItsOperands : Prop :=
  decode 0x0000000000000001 = .ok .seed ∧
  ∀ s : State,
    exec .seed s = .next { s with
      key := #v[Config.family.key0, Config.family.key1, s.arg[0], s.arg[1]]
      ctr := 0
      cidx := 0xFFFFFFFFFFFFFFFF
      status := 0 }

/-- R102: SEED_DEF completes on every state, reads no operand, gives what SEED gives on the default operands, and leaves
the key, counter and cache index of reset. -/
def Obligations.SeedDefWritesTheDefaultKey : Prop :=
  decode 0x0000000000000002 = .ok .seedDef ∧
  (∀ s : State,
    exec .seedDef s = .next { s with
      key := #v[Config.family.key0, Config.family.key1, Config.family.defSeed, Config.family.defStream]
      ctr := 0
      cidx := 0xFFFFFFFFFFFFFFFF
      status := 0 }) ∧
  (∀ s : State, s.arg[0] = Config.family.defSeed → s.arg[1] = Config.family.defStream →
    exec .seed s = exec .seedDef s) ∧
  (∀ s : State, ∃ t, exec .seedDef s = .next t ∧
    t.key = State.reset.key ∧ t.ctr = State.reset.ctr ∧ t.cidx = State.reset.cidx)

/-- R104: SEED_ENT completes on every state; key word `i` is entropy word `2i` above entropy word `2i + 1`, each the low
half of its ARG register. -/
def Obligations.SeedEntPacksEightHalfWords : Prop :=
  decode 0x0000000000000003 = .ok .seedEnt ∧
  ∀ s : State,
    exec .seedEnt s = .next { s with
      key := #v[ s.arg[0].extractLsb' 0 32 ++ s.arg[1].extractLsb' 0 32,
                 s.arg[2].extractLsb' 0 32 ++ s.arg[3].extractLsb' 0 32,
                 s.arg[4].extractLsb' 0 32 ++ s.arg[5].extractLsb' 0 32,
                 s.arg[6].extractLsb' 0 32 ++ s.arg[7].extractLsb' 0 32 ]
      ctr := 0
      cidx := 0xFFFFFFFFFFFFFFFF
      status := 0 }

/-- R100: the seeding commands end with CTR 0 and the sentinel, and the identity they reach does not depend on what the
engine held, only on the operands the command reads (SEED: ARG[0] and ARG[1]; SEED_DEF: none; SEED_ENT: the low halves of
the eight); so every later sequence of draws and skips gives the same words. -/
def Obligations.SeedingForgetsTheEngineState : Prop :=
  ∀ i ∈ [Instr.seed, Instr.seedDef, Instr.seedEnt], ∀ s t : State,
    (i = Instr.seed → s.arg[0] = t.arg[0] ∧ s.arg[1] = t.arg[1]) →
    (i = Instr.seedEnt → ∀ j : Fin 8, s.arg[j].extractLsb' 0 32 = t.arg[j].extractLsb' 0 32) →
    ∃ s' t', exec i s = .next s' ∧ exec i t = .next t' ∧
      s'.ctr = 0 ∧ s'.cidx = 0xFFFFFFFFFFFFFFFF ∧ s'.identity = t'.identity ∧
      ∀ (h g : Nat) (ops : List StreamOp), ∃ s'' t'',
        runStream h ops s' = .next s'' ∧ runStream g ops t' = .next t'' ∧ newValues s' s'' = newValues t' t''

/-- R103: after SEED_DEF, and after reset, the draws give one fixed sequence, word after word of block after block. -/
def Obligations.DefaultStreamIsFixed : Prop :=
  ∀ (h n : Nat) (s u : State),
    (u = State.reset ∨ portEvent .reset s = .next u ∨ exec .seedDef s = .next u) →
    ∃ t, runStream h (List.replicate n .draw) u = .next t ∧
      newValues u t =
        (List.range n).map fun j =>
          (block Config.family
            #v[Config.family.key0, Config.family.key1, Config.family.defSeed, Config.family.defStream]
            (BitVec.ofNat 64 (j % 2 ^ 64 / 16)))[j % 16]'(Nat.mod_lt _ (by decide))

/-! ### The permutation -/

/-- R110: bit `i` of `rotr(x, n)` is bit `(i + n) mod 64` of `x`. -/
def Obligations.RotateRightMovesBits : Prop :=
  ∀ (x : Word) (n i : Nat), 1 ≤ n → n ≤ 63 → i < 64 →
    (rotr x n).getLsbD i = x.getLsbD ((i + n) % 64)

/-- R113: on four distinct positions the quarter-round gives these four words and changes no other position. -/
def Obligations.QuarterRoundMixesFourWords : Prop :=
  ∀ (x : Block) (a b c d : Fin 16), [a, b, c, d].Nodup →
    let a1 := x[a] + x[b]
    let d1 := rotr (x[d] ^^^ a1) 32
    let c1 := x[c] + d1
    let b1 := rotr (x[b] ^^^ c1) 24
    let a2 := a1 + b1
    let d2 := rotr (d1 ^^^ a2) 16
    let c2 := c1 + d2
    let b2 := rotr (b1 ^^^ c2) 63
    let y := quarterRound x a b c d
    y[a] = a2 ∧ y[b] = b2 ∧ y[c] = c2 ∧ y[d] = d2 ∧ ∀ e : Fin 16, e ∉ [a, b, c, d] → y[e] = x[e]

/-- 41_permutation.md, section 3 (independence): quarter-rounds on disjoint positions commute; so do the four of each half of the schedule, in any order. -/
def Obligations.DisjointQuarterRoundsCommute : Prop :=
  (∀ (x : Block) (a b c d a' b' c' d' : Fin 16), [a, b, c, d, a', b', c', d'].Nodup →
    quarterRound (quarterRound x a b c d) a' b' c' d' = quarterRound (quarterRound x a' b' c' d') a b c d) ∧
  (∀ (x : Block) (col diag : List Quadruple),
    col.Perm [⟨0, 4, 8, 12⟩, ⟨1, 5, 9, 13⟩, ⟨2, 6, 10, 14⟩, ⟨3, 7, 11, 15⟩] →
    diag.Perm [⟨0, 5, 10, 15⟩, ⟨1, 6, 11, 12⟩, ⟨2, 7, 8, 13⟩, ⟨3, 4, 9, 14⟩] →
    (col ++ diag).foldl (fun y q => quarterRound y q.a q.b q.c q.d) x = mixRound x)

/-- R112, R119: the input vector, and the range of its block counter word when the block index is that of a counter. -/
def Obligations.InputVectorWords : Prop :=
  (∀ (F : Family) (k : Key) (b : Word),
    (∀ i : Fin 4, (inputVector F k b)[i.val] = F.cin[i]) ∧
    (∀ i : Fin 4, (inputVector F k b)[4 + i.val] = k[i]) ∧
    (∀ i : Fin 5, (inputVector F k b)[8 + i.val] = F.civ[i]) ∧
    (inputVector F k b)[13].toNat = (b.toNat + 1) % 2 ^ 64 ∧
    (inputVector F k b)[14] = 0 ∧ (inputVector F k b)[15] = 0) ∧
  (∀ (F : Family) (k : Key) (c : Word),
    (blockIndex c).toNat ≤ 2 ^ 60 - 1 ∧
    (inputVector F k (blockIndex c))[13].toNat = (blockIndex c).toNat + 1)

/-- R114, R115, R116, R118: the block is the input vector, mixed by `R` rounds of the eight quarter-rounds in this order,
plus the input vector, word by word. -/
def Obligations.BlockIsRoundsPlusInput : Prop :=
  ∀ (F : Family) (k : Key) (b : Word) (i : Fin 16),
    let input : Block :=
      #v[F.cin[0], F.cin[1], F.cin[2], F.cin[3], k[0], k[1], k[2], k[3],
         F.civ[0], F.civ[1], F.civ[2], F.civ[3], F.civ[4], b + 1, 0, 0]
    let round : Block → Block := fun x =>
      [(0, 4, 8, 12), (1, 5, 9, 13), (2, 6, 10, 14), (3, 7, 11, 15),
       (0, 5, 10, 15), (1, 6, 11, 12), (2, 7, 8, 13), (3, 4, 9, 14)].foldl
        (fun y (q : Fin 16 × Fin 16 × Fin 16 × Fin 16) => quarterRound y q.1 q.2.1 q.2.2.1 q.2.2.2) x
    (block F k b)[i] = (round^[F.rounds.toNat] input)[i] + input[i]

/-- R120: with no rounds the block is twice the input. -/
def Obligations.BlockOfNoRoundsIsTwiceTheInput : Prop :=
  ∀ (F : Family) (k : Key) (b : Word), F.rounds = 0 →
    (∀ i : Fin 16, (block F k b)[i] = 2 * (inputVector F k b)[i]) ∧
    (block F k b)[13] = 2 * (b + 1) ∧ (block F k b)[14] = 0 ∧ (block F k b)[15] = 0 ∧
    ∀ i : Fin 4, (block F k b)[4 + i.val] = 2 * k[i]

/-! ### Draw and skip -/

/-- R130: the split of a counter value, and the word of the output stream it names. -/
def Obligations.CounterSplitsIntoBlockAndOffset : Prop :=
  ∀ (F : Family) (k : Key) (c : Word),
    (blockIndex c).toNat = c.toNat / 16 ∧ blockIndex c = c >>> 4 ∧
    (blockOffset c).val = c.toNat % 16 ∧ (blockOffset c).val = (c &&& 0xF).toNat ∧
    streamWord F k c = (block F k (c >>> 4))[c.toNat % 16]'(Nat.mod_lt _ (by decide))

/-- R131, R132: NEXT completes on every state; a miss computes, caches and records exactly one block, a hit none; the word
is taken at the counter before the increment. With the sentinel it misses; after the last word of a block the next
block index is another. -/
def Obligations.NextDrawsTheCachedWord : Prop :=
  decode 0x0000000000000010 = .ok .next ∧
  ∀ s : State,
    (s.cidx ≠ s.ctr >>> 4 →
      exec .next s = .next { s with
        cache := block Config.family s.key (s.ctr >>> 4)
        cidx := s.ctr >>> 4
        permutes := s.permutes ++ [s.ctr >>> 4]
        res := s.res.set 0
          ((block Config.family s.key (s.ctr >>> 4))[s.ctr.toNat % 16]'(Nat.mod_lt _ (by decide)))
        ctr := s.ctr + 1
        status := 0 }) ∧
    (s.cidx = s.ctr >>> 4 →
      exec .next s = .next { s with
        res := s.res.set 0 (s.cache[s.ctr.toNat % 16]'(Nat.mod_lt _ (by decide)))
        ctr := s.ctr + 1
        status := 0 }) ∧
    (s.cidx = 0xFFFFFFFFFFFFFFFF → s.cidx ≠ s.ctr >>> 4) ∧
    (s.ctr.toNat % 16 = 15 → (s.ctr + 1) >>> 4 ≠ s.ctr >>> 4)

/-- R28: whatever the cache holds under the cache invariant, the next word is the stream's word at the counter. -/
def Obligations.NextReturnsTheStreamWord : Prop :=
  ∀ s : State, CacheValid Config.family s →
    ∃ t, exec .next s = .next t ∧
      t.res[0] = (block Config.family s.key (s.ctr >>> 4))[s.ctr.toNat % 16]'(Nat.mod_lt _ (by decide))

/-- R134: at the top of the counter's range NEXT gives the last word and wraps to 0, and the NEXT after it gives the
first word of block 0, on a miss. -/
def Obligations.CounterWrapsAfterTheLastWord : Prop :=
  ∀ s : State, CacheValid Config.family s → s.ctr = 0xFFFFFFFFFFFFFFFF →
    ∃ t u, exec .next s = .next t ∧ exec .next t = .next u ∧
      t.res[0] = (block Config.family s.key 0x0FFFFFFFFFFFFFFF)[15] ∧ t.ctr = 0 ∧
      u.res[0] = (block Config.family s.key 0)[0] ∧ u.ctr = 1 ∧ u.permutes = t.permutes ++ [0]

/-- The cost contract of 42_draw.md: sixteen draws from a multiple of 16 permute once, on the first draw, or never where
the block is already cached. -/
def Obligations.SixteenDrawsPermuteAtMostOnce : Prop :=
  ∀ s : State, s.ctr.toNat % 16 = 0 →
    ∃ u t, exec .next s = .next u ∧ runCommands (List.replicate 16 .next) s = .next t ∧
      (s.cidx ≠ s.ctr >>> 4 →
        u.permutes = s.permutes ++ [s.ctr >>> 4] ∧ t.permutes = s.permutes ++ [s.ctr >>> 4]) ∧
      (s.cidx = s.ctr >>> 4 → t.permutes = s.permutes)

/-- R136: DISCARD completes on every state, adds its operand to the counter modulo 2^64 and changes nothing else but
STATUS. -/
def Obligations.DiscardAddsToTheCounter : Prop :=
  decode 0x0000000000000011 = .ok .discard ∧
  ∀ s : State, ∃ t,
    exec .discard s = .next t ∧ t.ctr.toNat = (s.ctr.toNat + s.arg[0].toNat) % 2 ^ 64 ∧
    t = { s with ctr := t.ctr, status := 0 }

/-- R137: skipping `n` words and drawing once gives the word, key and counter of `n + 1` draws, for every `n`. -/
def Obligations.DiscardThenNextIsThatManyNexts : Prop :=
  ∀ s : State, CacheValid Config.family s →
    ∃ t u, runCommands [.discard, .next] s = .next t ∧
      runCommands (List.replicate (s.arg[0].toNat + 1) .next) s = .next u ∧
      t.res[0] = u.res[0] ∧ t.key = u.key ∧ t.ctr = u.ctr

/-- R138: after a seeding command or LOAD, any sequence of draws and skips draws the stream's words at the positions the
counter passes; no command but those changes the key or the counter. -/
def Obligations.StreamLawAfterSeeding : Prop :=
  (∀ i ∈ [Instr.seed, Instr.seedDef, Instr.seedEnt, Instr.load], ∀ s u : State, exec i s = .next u →
    ∀ (h : Nat) (ops : List StreamOp),
      ∃ t, runStream h ops u = .next t ∧
        newValues u t = streamWords Config.family u.key u.ctr ops ∧
        t.key = u.key ∧ t.ctr = streamCtr u.ctr ops) ∧
  (∀ i ∈ [Instr.equals, Instr.save, Instr.minval, Instr.maxval], ∀ s t : State, exec i s = .next t →
    t.key = s.key ∧ t.ctr = s.ctr)

/-! ### Equality and state transfer -/

/-- R151: EQUALS completes on every state; its result is 1 exactly when all four key words and the counter agree. -/
def Obligations.EqualsComparesTheIdentityWords : Prop :=
  decode 0x0000000000000020 = .ok .equals ∧
  ∀ s : State,
    exec .equals s = .next { s with
      res := s.res.set 0
        (if s.key = #v[s.arg[0], s.arg[1], s.arg[2], s.arg[3]] ∧ s.ctr = s.arg[4] then 1 else 0)
      status := 0 }

/-- R150: `Equal`, of two engines of one family, is equality of the identity tuple: reflexive, symmetric, transitive, and
blind to the cache; on the machine of `step` it is that of its family. -/
def Obligations.EqualIsEqualityOfIdentity : Prop :=
  (∀ (F : Family) (d e : Engine F), d.equal e = true ↔ d.state.key = e.state.key ∧ d.state.ctr = e.state.ctr) ∧
  (∀ (F : Family) (e : Engine F), e.equal e = true) ∧
  (∀ (F : Family) (d e : Engine F), d.equal e = e.equal d) ∧
  (∀ (F : Family) (c d e : Engine F), c.equal d = true → d.equal e = true → c.equal e = true) ∧
  (∀ s t : State, equalIdentity s.identity t.identity = (⟨s⟩ : Engine Config.family).equal ⟨t⟩)

/-- R152: equal generators, engines of any one family and the machine of `step` among them, give equal words for every
sequence of draws and skips, whatever their caches hold, and stay equal. -/
def Obligations.EqualGeneratorsGiveEqualOutput : Prop :=
  (∀ (F : Family) (d e : Engine F), CacheValid F d.state → CacheValid F e.state → d.equal e = true →
    ∀ (h g : Nat) (ops : List StreamOp),
      ∃ d' e' : Engine F, runStreamOf F h ops d.state = .next d'.state ∧ runStreamOf F g ops e.state = .next e'.state ∧
        newValues d.state d'.state = newValues e.state e'.state ∧ d'.equal e' = true) ∧
  (∀ (s t : State), CacheValid Config.family s → CacheValid Config.family t →
    equalIdentity s.identity t.identity = true →
    ∀ (h g : Nat) (ops : List StreamOp),
      ∃ s' t', runStream h ops s = .next s' ∧ runStream g ops t = .next t' ∧
        newValues s s' = newValues t t' ∧ equalIdentity s'.identity t'.identity = true)

/-- R161: SAVE completes on every state and puts the five identity words into RES. -/
def Obligations.SaveWritesTheIdentityWords : Prop :=
  decode 0x0000000000000030 = .ok .save ∧
  ∀ s : State,
    exec .save s = .next { s with
      res := #v[s.key[0], s.key[1], s.key[2], s.key[3], s.ctr]
      status := 0 }

/-- R162: LOAD completes on every state and restores the five identity words, with the cache invalidated. -/
def Obligations.LoadRestoresTheIdentityWords : Prop :=
  decode 0x0000000000000031 = .ok .load ∧
  ∀ s : State,
    exec .load s = .next { s with
      key := #v[s.arg[0], s.arg[1], s.arg[2], s.arg[3]]
      ctr := s.arg[4]
      cidx := 0xFFFFFFFFFFFFFFFF
      status := 0 }

/-- R163: LOAD of the SAVE output of one engine on another gives an equal engine that continues with the same words; so
does Deserialize of the text that Serialize gave, on engines of any one family. -/
def Obligations.SavedStateContinuesOnAnotherEngine : Prop :=
  (∀ (h g : Nat) (s u r : State), CacheValid Config.family s → exec .save s = .next u →
    (∀ i : Fin 5, r.arg[i.val] = u.res[i]) →
    ∃ r', exec .load r = .next r' ∧ equalIdentity s.identity r'.identity = true ∧
      ∀ ops : List StreamOp, ∃ s'' r'',
        runStream h ops s = .next s'' ∧ runStream g ops r' = .next r'' ∧ newValues s s'' = newValues r' r'') ∧
  (∀ (h g : Nat) (s r : State), CacheValid Config.family s →
    ∃ s' text r', serialize h s = some (s', text) ∧ deserialize g text r = .ok (.next r') ∧
      equalIdentity s.identity r'.identity = true ∧
      ∀ ops : List StreamOp, ∃ s'' r'',
        runStream h ops s = .next s'' ∧ runStream g ops r' = .next r'' ∧ newValues s s'' = newValues r' r'') ∧
  (∀ (F : Family) (h g : Nat) (e d : Engine F), CacheValid F e.state → ∃ e' text d',
    e.serialize h = some (e', text) ∧ d.deserialize g text = .ok (.next d') ∧ e.equal d' = true ∧
    ∀ ops : List StreamOp, ∃ s'' r'', runStreamOf F h ops e.state = .next s'' ∧
      runStreamOf F g ops d'.state = .next r'' ∧ newValues e.state s'' = newValues d'.state r'')

/-- 44_state_transfer.md, the host procedure: Serialize runs to its end and returns the encoding of the identity words, which it does not change. -/
def Obligations.SerializeEncodesTheIdentity : Prop :=
  ∀ (h : Nat) (s : State), ∃ t,
    serialize h s = some (t, ⟨encodeText #v[s.key[0], s.key[1], s.key[2], s.key[3], s.ctr]⟩) ∧
    t.key = s.key ∧ t.ctr = s.ctr ∧ t.cache = s.cache ∧ t.cidx = s.cidx ∧ t.arg = s.arg

/-- R169: a text that parses is written to ARG0..ARG4 and loaded; one that does not makes no access and its error is
reported. -/
def Obligations.DeserializeLoadsOnlyParsedText : Prop :=
  ∀ (h : Nat) (text : Text) (s : State),
    (∀ w, parseText text = .ok w → ∃ t,
      deserialize h ⟨text⟩ s = .ok (.next t) ∧
      t = { s with
        key := #v[w[0], w[1], w[2], w[3]]
        ctr := w[4]
        cidx := 0xFFFFFFFFFFFFFFFF
        arg := #v[w[0], w[1], w[2], w[3], w[4], s.arg[5], s.arg[6], s.arg[7]]
        status := 0 }) ∧
    (∀ e, parseText text = .error e → deserialize h ⟨text⟩ s = .error e)

/-! ### The text form -/

/-- R167: parsing undoes encoding for every five words; the converse fails. -/
def Obligations.ParsingUndoesEncoding : Prop :=
  (∀ w : IdentityWords, parseText (encodeText w) = .ok w) ∧
  (∃ (t : Text) (w : IdentityWords), parseText t = .ok w ∧ encodeText w ≠ t)

/-- R165: five decimal numerals without leading zeros, single spaces between them, 104 characters at the longest. -/
def Obligations.EncoderWritesShortestNumerals : Prop :=
  (∀ v : Word, decimalValue (decimal v) = v.toNat ∧ (∀ c ∈ decimal v, '0' ≤ c ∧ c ≤ '9') ∧ decimal v ≠ [] ∧
    ((decimal v).head? = some '0' → decimal v = ['0'])) ∧
  (∀ w : IdentityWords,
    encodeText w = decimal w[0] ++ [' '] ++ decimal w[1] ++ [' '] ++ decimal w[2] ++ [' '] ++ decimal w[3] ++ [' '] ++
      decimal w[4] ∧
    (encodeText w).length ≤ 104) ∧
  (∃ w : IdentityWords, (encodeText w).length = 104)

/-- 44_state_transfer.md, the parser's loop: a run of digits after whitespace is a field, in range or not; anything else
where a field must start is malformed. -/
def Obligations.ParserReadsOneField : Prop :=
  ∀ (ws ds rest : Text), (∀ c ∈ ws, c.toNat ∈ [0x20, 0x09, 0x0A, 0x0B, 0x0C, 0x0D]) →
    (∀ c ∈ ds, '0' ≤ c ∧ c ≤ '9') →
    (ds ≠ [] → (∀ c ∈ rest.head?, ¬('0' ≤ c ∧ c ≤ '9')) →
      parseField (ws ++ ds ++ rest) =
        if decimalValue ds ≤ 2 ^ 64 - 1 then .ok (BitVec.ofNat 64 (decimalValue ds), rest) else .error .outOfRange) ∧
    ((∀ c ∈ rest.head?, ¬('0' ≤ c ∧ c ≤ '9') ∧ c.toNat ∉ [0x20, 0x09, 0x0A, 0x0B, 0x0C, 0x0D]) →
      parseField (ws ++ rest) = .error .malformed)

/-- 44_state_transfer.md, the parser's end check: after five fields whitespace may follow, and nothing else may, whether
whitespace stands before it or it stands directly after the fifth numeral (where a digit would belong to the numeral). -/
def Obligations.ParserRejectsTrailingText : Prop :=
  ∀ (w : IdentityWords) (ws rest : Text), (∀ c ∈ ws, c.toNat ∈ [0x20, 0x09, 0x0A, 0x0B, 0x0C, 0x0D]) →
    parseText (encodeText w ++ ws) = .ok w ∧
    ((ws = [] → ∀ c ∈ rest.head?, ¬('0' ≤ c ∧ c ≤ '9')) →
      (∀ c ∈ rest.head?, c.toNat ∉ [0x20, 0x09, 0x0A, 0x0B, 0x0C, 0x0D]) → rest ≠ [] →
      parseText (encodeText w ++ ws ++ rest) = .error .malformed)

/-! ### Static information -/

/-- R181: MINVAL completes on every state: RES0 is 0, nothing else but STATUS changes. -/
def Obligations.MinvalReportsZero : Prop :=
  decode 0x0000000000000040 = .ok .minval ∧
  ∀ s : State, exec .minval s = .next { s with res := s.res.set 0 0x0000000000000000, status := 0 }

/-- R182: MAXVAL completes on every state: RES0 is 2^64 - 1, nothing else but STATUS changes. -/
def Obligations.MaxvalReportsAllOnes : Prop :=
  decode 0x0000000000000041 = .ok .maxval ∧
  ∀ s : State, exec .maxval s = .next { s with res := s.res.set 0 0xFFFFFFFFFFFFFFFF, status := 0 }

/-! ### Registers, port, errors -/

/-- 10_state.md, section 2: which accepted command leaves which register alone; all of them write STATUS 0 and none an
ARG register. -/
def Obligations.CommandsWriteOnlyTheirRegisters : Prop :=
  ∀ (i : Instr) (s : State), ∃ t, exec i s = .next t ∧
    t.status = 0 ∧ t.arg = s.arg ∧
    (i ∉ [Instr.seed, Instr.seedDef, Instr.seedEnt, Instr.load] → t.key = s.key) ∧
    (i ∉ [Instr.seed, Instr.seedDef, Instr.seedEnt, Instr.load, Instr.next, Instr.discard] → t.ctr = s.ctr) ∧
    (i ≠ Instr.next → t.cache = s.cache ∧ t.permutes = s.permutes) ∧
    (i ∉ [Instr.seed, Instr.seedDef, Instr.seedEnt, Instr.load, Instr.next] → t.cidx = s.cidx) ∧
    (i ∉ [Instr.next, Instr.equals, Instr.save, Instr.minval, Instr.maxval] → t.res = s.res) ∧
    (i ≠ Instr.save → ∀ j : Fin 5, j ≠ 0 → t.res[j] = s.res[j]) ∧
    t.pending = s.pending ∧ t.responses = s.responses ∧ t.freeNext = s.freeNext

/-- 10_state.md, key material: a step changes the key only by a reset or by a CMD write of SEED, SEED_DEF, SEED_ENT or
LOAD. -/
def Obligations.KeyChangesOnlyBySeedingLoadOrReset : Prop :=
  ∀ s t : State, step s = .next t → t.key ≠ s.key →
    ∃ rest, s.pending = .reset :: rest ∨
      ∃ (h : Nat) (i : Instr), i ∈ [Instr.seed, Instr.seedDef, Instr.seedEnt, Instr.load] ∧
        s.pending = .access h (.write 0x00 8 (encode i)) :: rest

/-- R74, R202, R203: a rejected command word writes STATUS and nothing else; the reserved bits are checked first. -/
def Obligations.CommandErrorWritesOnlyStatus : Prop :=
  ∀ (v : Word) (s : State),
    (v >>> 8 ≠ 0 → executeWord v s = .next { s with status := ((0x02 : Word) <<< 8) ||| 1 }) ∧
    (v >>> 8 = 0 → v.toNat ∉ [0x01, 0x02, 0x03, 0x10, 0x11, 0x20, 0x30, 0x31, 0x40, 0x41] →
      executeWord v s = .next { s with status := ((0x01 : Word) <<< 8) ||| 1 })

/-- R205: an error keeps no history and blocks nothing: what the next command word does is what it would have done
without the error before it; an accepted one clears STATUS, a rejected one leaves its own code. -/
def Obligations.ErrorsDoNotOutliveTheNextCommandWord : Prop :=
  ∀ (e : CommandError) (v : Word) (s : State),
    executeWord v (s.commandError e) = executeWord v s ∧
    (∀ i, decode v = .ok i → ∃ t, executeWord v (s.commandError e) = .next t ∧ t.status = 0) ∧
    (∀ e', decode v = .error e' → executeWord v (s.commandError e) = .next (s.commandError e'))

/-- R52: what a read of each supported offset returns, and that it completes and changes no state of the engine. -/
def Obligations.ReadsReturnTheRegisters : Prop :=
  ∀ s : State,
    (∀ h off : Nat, off % 8 = 0 → off ≤ 0xF8 → ∃ t, portAccess h (.read off 8) s = .next t ∧
      t.key = s.key ∧ t.ctr = s.ctr ∧ t.cache = s.cache ∧ t.cidx = s.cidx ∧ t.status = s.status ∧ t.arg = s.arg ∧
      t.res = s.res ∧ t.permutes = s.permutes) ∧
    readRegister Config.family s (registerAt 0x00) = 0 ∧
    readRegister Config.family s (registerAt 0x08) = s.status ∧
    readRegister Config.family s (registerAt 0x10) = Config.family.rounds.setWidth 64 ∧
    (∀ i : Fin 8, readRegister Config.family s (registerAt (0x40 + 8 * i)) = s.arg[i]) ∧
    (∀ i : Fin 5, readRegister Config.family s (registerAt (0x80 + 8 * i)) = s.res[i]) ∧
    (∀ k : Nat, (3 ≤ k ∧ k ≤ 7) ∨ (21 ≤ k ∧ k ≤ 31) → readRegister Config.family s (registerAt (8 * k)) = 0)

/-- A supported read changes nothing but the list of values given to hosts, where it puts the register's value; that list
is the model's own (notes/assumptions/3.md). -/
def Obligations.ReadsDeliverTheirValueAndNothingElse : Prop :=
  ∀ (h off : Nat) (s : State), off % 8 = 0 → off ≤ 0xF8 →
    portAccess h (.read off 8) s =
      .next { s with
        responses := s.responses ++ [⟨h, off, readRegister Config.family s (registerAt off)⟩] }

/-- R53: what a write of each supported offset does. -/
def Obligations.WritesReachCmdAndArgOnly : Prop :=
  ∀ (h : Nat) (v : Word) (s : State),
    portAccess h (.write 0x00 8 v) s = executeWord v s ∧
    (∀ i : Fin 8, portAccess h (.write (0x40 + 8 * i) 8 v) s = .next { s with arg := s.arg.set i v }) ∧
    (∀ off : Nat, off % 8 = 0 → off ≤ 0xF8 → off ≠ 0x00 → ¬(0x40 ≤ off ∧ off ≤ 0x78) →
      portAccess h (.write off 8 v) s = .next s)

/-- R51: an access of another width, misaligned or beyond 0xF8 is the fault UNSUPPORTED_ACCESS(off, width). -/
def Obligations.UnsupportedAccessesFault : Prop :=
  ∀ (h off bytes : Nat) (v : Word) (s : State), (bytes ≠ 8 ∨ off % 8 ≠ 0 ∨ 0xF8 < off) →
    portAccess h (.read off bytes) s = .fault (.unsupportedAccess off bytes) ∧
    portAccess h (.write off bytes v) s = .fault (.unsupportedAccess off bytes)

/-- R34: an ARG register holds the last value written to it, or 0 after a reset, whatever accesses and commands come
between. -/
def Obligations.ArgHoldsTheLastValueWritten : Prop :=
  ∀ (i : Fin 8) (es : List PortEvent),
    (∀ e ∈ es, e ≠ .reset ∧ ∀ (h : Nat) (v : Word), e ≠ .access h (.write (0x40 + 8 * i) 8 v)) →
    ∀ s t : State,
      (∀ (h : Nat) (v : Word), runEvents (.access h (.write (0x40 + 8 * i) 8 v) :: es) s = .next t →
        readRegister Config.family t (registerAt (0x40 + 8 * i)) = v) ∧
      (runEvents (.reset :: es) s = .next t →
        readRegister Config.family t (registerAt (0x40 + 8 * i)) = 0)

/-- 60_exceptions.md, privilege: renumbering the hosts changes only who gets the values read, not the engine, not the
values and not the outcome: a run that faults gives the same fault. -/
def Obligations.HostNumbersDoNotReachTheEngine : Prop :=
  ∀ (f : Nat → Nat) (es : List PortEvent) (s : State),
    (∀ t, runEvents es s = .next t →
      ∃ t', runEvents (es.map (PortEvent.relabel f)) s = .next t' ∧
        t' = { t with responses := t'.responses } ∧ newValues s t' = newValues s t) ∧
    (∀ e, runEvents es s = .fault e → runEvents (es.map (PortEvent.relabel f)) s = .fault e)

/-! ### Reset, step, whole machine -/

/-- R43: the reset values (CACHE is any value, and nothing is said of it). -/
def Obligations.ResetValues : Prop :=
  State.reset.key[0] = Config.family.key0 ∧ State.reset.key[1] = Config.family.key1 ∧
  State.reset.key[2] = Config.family.defSeed ∧ State.reset.key[3] = Config.family.defStream ∧
  State.reset.ctr = 0 ∧ State.reset.cidx = 0xFFFFFFFFFFFFFFFF ∧
  (∀ i : Fin 8, State.reset.arg[i] = 0) ∧ (∀ i : Fin 5, State.reset.res[i] = 0) ∧
  State.reset.status = 0 ∧
  readRegister Config.family State.reset .rounds = Config.family.rounds.setWidth 64 ∧
  State.reset.permutes = []

/-- R230: a reset event sets every piece of the engine's state to its reset value, from every state. -/
def Obligations.ResetEventResetsTheEngine : Prop :=
  ∀ s : State, ∃ t, portEvent .reset s = .next t ∧
    t.key = #v[Config.family.key0, Config.family.key1, Config.family.defSeed, Config.family.defStream] ∧
    t.ctr = 0 ∧ t.cidx = 0xFFFFFFFFFFFFFFFF ∧
    (∀ i : Fin 8, t.arg[i] = 0) ∧ (∀ i : Fin 5, t.res[i] = 0) ∧ t.status = 0 ∧ t.permutes = []

/-- R231: after reset, the reset state as well as any state after a reset event, the identity is that of SEED_DEF, and the
first NEXT misses and returns the first word of the default stream. -/
def Obligations.FirstDrawAfterReset : Prop :=
  ∀ r u : State, (u = State.reset ∨ portEvent .reset r = .next u) →
  (∀ s t : State, exec .seedDef s = .next t → u.identity = t.identity) ∧
  ∃ t, exec .next u = .next t ∧ t.permutes = [0] ∧
    t.res[0] =
      (block Config.family
        #v[Config.family.key0, Config.family.key1, Config.family.defSeed, Config.family.defStream] 0)[0]

/-- The step runs the decoded instruction: with a host's write of a command word to CMD first among the pending events,
one step is exec of that command. That a step takes the first pending event is the model's own
(notes/assumptions/1.md, 6.md). -/
def Obligations.StepRunsTheDecodedCommand : Prop :=
  (∀ (s : State) (h : Nat) (w : Word) (i : Instr) (rest : List PortEvent),
    s.pending = .access h (.write 0x00 8 w) :: rest → decode w = .ok i →
    step s = exec i { s with pending := rest }) ∧
  (∀ (s : State) (nbits w : Nat) (i : Instr), decodeTableWord nbits w = some i →
    step (s.withFetchWord nbits w) = exec i s)

/-- A step performs the first pending event; with none pending it changes nothing. The model's choice
(notes/assumptions/1.md, 2.md). -/
def Obligations.StepPerformsTheFirstPendingEvent : Prop :=
  (∀ (s : State) (e : PortEvent) (rest : List PortEvent), s.pending = e :: rest →
    step s = portEvent e { s with pending := rest }) ∧
  (∀ s : State, s.pending = [] → step s = .next s)

/-- R26: every step keeps the cache invariant, from every state that has it. -/
def Obligations.StepKeepsTheCacheInvariant : Prop :=
  ∀ s t : State, CacheValid Config.family s → step s = .next t → CacheValid Config.family t

/-- The cache invariant holds at reset (10_state.md, section 1; 70_reset_and_hazards.md, section 2). -/
def Obligations.ResetHasTheCacheInvariant : Prop := CacheValid Config.family State.reset

/-- 10_state.md, sections 1 and 2: every step keeps CIDX the sentinel or a block index, and STATUS one of its three
values; these hold at reset; and under them ERR is 0 exactly when ERRCODE is 0. -/
def Obligations.StepKeepsCidxAndStatusLegal : Prop :=
  (∀ s t : State, CidxLegal s → step s = .next t → CidxLegal t) ∧
  (∀ s t : State, StatusLegal s → step s = .next t → StatusLegal t) ∧
  CidxLegal State.reset ∧ StatusLegal State.reset ∧
  (∀ s : State, StatusLegal s → (statusErr s.status = 0 ↔ statusErrCode s.status = 0))

/-- 10_state.md, output law: the cache, its index, the PERMUTE history and the free values reach no host: two valid states
that differ only in them give the same outcomes, step by step, for ever. -/
def Obligations.CacheIsInvisibleToHosts : Prop :=
  ∀ (n : Nat) (s t : State), CacheValid Config.family s → CacheValid Config.family t → SameVisible s t →
    (∀ s', Sys2Proof.core.run n s = .next s' →
      ∃ t', Sys2Proof.core.run n t = .next t' ∧ SameVisible s' t') ∧
    (∀ f, Sys2Proof.core.run n s = .fault f → Sys2Proof.core.run n t = .fault f)

/-- 70_reset_and_hazards.md, section 5: nothing a host does makes the engine fault or hang but an unsupported access:
every run of supported events is safe, at every length, and performs them all. -/
def Obligations.SupportedEventsNeverStopTheEngine : Prop :=
  ∀ s : State, PendingSupported s → ∀ n : Nat,
    ∃ t, Sys2Proof.core.run n s = .next t ∧ t.pending = s.pending.drop n

/-! ### Assembly and platform -/

/-- 30_encoding.md, section 5: the fixed expansions of the pseudo-instructions, bare mnemonics, and that an assembler rejects
every other number of operands and a SEED_ENT operand of 2^32 or more. With which error is the model's choice
(notes/assumptions/12.md), so the statement does not say. -/
def Obligations.PseudoInstructionsExpandAsListed : Prop :=
  (∀ s t : Word,
    expandLine (.pseudo .seed [s.toNat, t.toNat]) = .ok [.write 0x40 8 s, .write 0x48 8 t, .write 0x00 8 0x01]) ∧
  (∀ e0 e1 e2 e3 e4 e5 e6 e7 : HalfWord,
    expandLine (.pseudo .seedEnt
        [e0.toNat, e1.toNat, e2.toNat, e3.toNat, e4.toNat, e5.toNat, e6.toNat, e7.toNat]) =
      .ok [ .write 0x40 8 (e0.setWidth 64), .write 0x48 8 (e1.setWidth 64), .write 0x50 8 (e2.setWidth 64),
            .write 0x58 8 (e3.setWidth 64), .write 0x60 8 (e4.setWidth 64), .write 0x68 8 (e5.setWidth 64),
            .write 0x70 8 (e6.setWidth 64), .write 0x78 8 (e7.setWidth 64), .write 0x00 8 0x03 ]) ∧
  (∀ n : Word, expandLine (.pseudo .discard [n.toNat]) = .ok [.write 0x40 8 n, .write 0x00 8 0x11]) ∧
  (∀ k0 k1 k2 k3 c : Word,
    expandLine (.pseudo .equals [k0.toNat, k1.toNat, k2.toNat, k3.toNat, c.toNat]) =
      .ok [ .write 0x40 8 k0, .write 0x48 8 k1, .write 0x50 8 k2, .write 0x58 8 k3, .write 0x60 8 c,
            .write 0x00 8 0x20 ] ∧
    expandLine (.pseudo .load [k0.toNat, k1.toNat, k2.toNat, k3.toNat, c.toNat]) =
      .ok [ .write 0x40 8 k0, .write 0x48 8 k1, .write 0x50 8 k2, .write 0x58 8 k3, .write 0x60 8 c,
            .write 0x00 8 0x31 ]) ∧
  expandLine .draw = .ok [.write 0x00 8 0x10, .read 0x80 8] ∧
  (∀ i : Instr, expandLine (.bare i) = .ok [.write 0x00 8 (encode i)]) ∧
  (∀ (i : Instr) (ops : List Nat),
    (i, ops.length) ∉ [(.seed, 2), (.seedEnt, 8), (.discard, 1), (.equals, 5), (.load, 5)] →
    ∃ e, expandLine (.pseudo i ops) = .error e) ∧
  (∀ ops : List Nat, (∃ n ∈ ops, 2 ^ 32 ≤ n) → ∃ e, expandLine (.pseudo .seedEnt ops) = .error e)

/-- 60_exceptions.md, multiple engines: the engine whose window holds the address performs the access at its own offset, and
a fault of its access is the platform's; an access changes no other engine, and no base or family. That the first such
engine answers, and that an address in no window reaches none, is the model's choice (notes/assumptions/16.md). -/
def Obligations.PlatformAccessLeavesOtherEngines : Prop :=
  (∀ base addr off : Nat, windowOffset base addr = some off ↔ base ≤ addr ∧ addr ≤ base + 0xFF ∧ addr = base + off) ∧
  (∀ (h : Nat) (a : Access) (ps : Platform) (k : Nat) (p : PlacedEngine) (off : Nat),
    ps[k]? = some p → windowOffset p.base a.place = some off →
    (∀ (j : Nat) (r : PlacedEngine), j < k → ps[j]? = some r → windowOffset r.base a.place = none) →
    (∀ t, p.engine.access h (a.relocate off) = .next t →
      platformAccess h a ps = .next (ps.set k { p with engine := t })) ∧
    (∀ f, p.engine.access h (a.relocate off) = .fault f → platformAccess h a ps = .fault f)) ∧
  (∀ (h : Nat) (a : Access) (ps : Platform), (∀ p ∈ ps, windowOffset p.base a.place = none) →
    platformAccess h a ps = .next ps) ∧
  (∀ (h : Nat) (a : Access) (ps qs : Platform), platformAccess h a ps = .next qs →
    qs.length = ps.length ∧
    ∀ (k : Nat) (p q : PlacedEngine), ps[k]? = some p → qs[k]? = some q →
      q.base = p.base ∧ q.family = p.family ∧ (windowOffset p.base a.place = none → q = p))

/-- 60_exceptions.md, multiple engines: each placed engine starts from reset; a reset of the engine at a base gives it the
reset values of its own family and leaves every engine at another base; and an engine draws, seeds and reports its round
count by its own family, while every other access is the same on every family. Resets as platform events are the model's
choice (notes/assumptions/16.md), and so is the list of values delivered (notes/assumptions/3.md). -/
def Obligations.PlacedEnginesResetAndRunByTheirOwnFamily : Prop :=
  (∀ (n : Nat) (places : List (Nat × Family)),
    (startPlatform n places).length = places.length ∧
    ∀ (k base : Nat) (F : Family), places[k]? = some (base, F) →
      ∃ e, (startPlatform n places)[k]? = some ⟨base, F, e⟩ ∧ HasResetValues F e.state) ∧
  (∀ (base : Nat) (ps : Platform), ∃ qs, platformEvent (.reset base) ps = .next qs ∧ qs.length = ps.length ∧
    ∀ (k : Nat) (p q : PlacedEngine), ps[k]? = some p → qs[k]? = some q →
      q.base = p.base ∧ q.family = p.family ∧ (p.base ≠ base → q = p) ∧
      (p.base = base → (∀ (j : Nat) (r : PlacedEngine), j < k → ps[j]? = some r → r.base ≠ base) →
        HasResetValues p.family q.engine.state)) ∧
  (∀ (F : Family) (h : Nat) (s : State),
    portAccessOf F h (.write 0x00 8 0x01) s = .next { s with
      key := #v[F.key0, F.key1, s.arg[0], s.arg[1]], ctr := 0, cidx := 0xFFFFFFFFFFFFFFFF, status := 0 } ∧
    portAccessOf F h (.write 0x00 8 0x02) s = .next { s with
      key := #v[F.key0, F.key1, F.defSeed, F.defStream], ctr := 0, cidx := 0xFFFFFFFFFFFFFFFF, status := 0 } ∧
    (CacheValid F s → ∃ t, portAccessOf F h (.write 0x00 8 0x10) s = .next t ∧ CacheValid F t ∧ t.ctr = s.ctr + 1 ∧
      t.res[0] = (block F s.key (s.ctr >>> 4))[s.ctr.toNat % 16]'(Nat.mod_lt _ (by decide))) ∧
    portAccessOf F h (.read 0x10 8) s =
      .next { s with responses := s.responses ++ [⟨h, 0x10, F.rounds.setWidth 64⟩] }) ∧
  (∀ (F : Family) (h : Nat) (a : Access) (e : Engine F),
    (∀ t, e.access h a = .next t ↔ portAccessOf F h a e.state = .next t.state) ∧
    (∀ f, e.access h a = .fault f ↔ portAccessOf F h a e.state = .fault f)) ∧
  (∀ (F : Family) (h : Nat) (a : Access) (s : State),
    a ∉ [.write 0x00 8 0x01, .write 0x00 8 0x02, .write 0x00 8 0x10, .read 0x10 8] →
    portAccessOf F h a s = portAccess h a s) ∧
  (∀ (h : Nat) (a : Access) (s : State), portAccessOf Config.family h a s = portAccess h a s)
end

