-- ==== Sys2Proof/Laws/Codec.lean ====
section
/-! SUPPORT. Characters, digits and runs of characters, said once. -/

namespace Sys2Proof.Machine

/-- A digit character: what each classifier and the value say of it. -/
theorem digitChar_facts (d : Nat) (h : d < 10) :
    isDigit (digitChar d) = true ∧ isSpace (digitChar d) = false ∧ digitValue (digitChar d) = d ∧
      (digitChar d = '0' → d = 0) := by
  revert d
  decide

theorem isDigit_iff (c : Char) : isDigit c = true ↔ '0' ≤ c ∧ c ≤ '9' := by
  simp only [isDigit, decide_eq_true_eq]
  rfl

theorem isSpace_iff (c : Char) : isSpace c = true ↔ c.toNat ∈ [0x20, 0x09, 0x0A, 0x0B, 0x0C, 0x0D] := by
  simp [isSpace, or_assoc]

/-- No digit is whitespace. -/
theorem isSpace_of_isDigit {c : Char} (h : isDigit c = true) : isSpace c = false := by
  simp only [isDigit, decide_eq_true_eq] at h
  rw [Bool.eq_false_iff, ne_eq, isSpace_iff]
  simp
  omega

/-- The accumulator of the digits stands after them. -/
theorem decimalDigits_append (fuel n : Nat) (acc : Text) :
    decimalDigits fuel n acc = decimalDigits fuel n [] ++ acc := by
  induction fuel generalizing n acc with
  | zero => rfl
  | succ f ih =>
    simp only [decimalDigits]
    split
    · rfl
    · rw [ih, ih (acc := [_])]
      simp

/-- Splitting a text after its longest run of characters of a class. -/
theorem span_append (p : Char → Bool) (ds rest : Text) (h : ∀ c ∈ ds, p c = true)
    (hr : ∀ c ∈ rest.head?, p c = false) :
    (ds ++ rest).takeWhile p = ds ∧ (ds ++ rest).dropWhile p = rest := by
  induction ds with
  | nil =>
    cases rest with
    | nil => simp
    | cons c r =>
      simp at hr
      simp [hr]
  | cons d ds ih =>
    have hd := h d (by simp)
    have i := ih fun c hc => h c (by simp [hc])
    simp [hd, i]

end Sys2Proof.Machine
end

