-- ==== Sys2Proof/Laws/Decode.lean ====
section
/-! SUPPORT. What the decoder and the encoder do, said once. -/

namespace Sys2Proof

/-- The must-be-zero field is zero exactly when the word shifted past its opcode is. -/
theorem mbz_eq_zero_iff (w : Word) : mbz w = 0 ↔ w >>> 8 = 0 := by
  constructor
  · intro h
    ext i hi
    have hb := congrArg (fun v => v.getLsbD i) h
    simp only [mbz, BitVec.getLsbD_extractLsb'] at hb
    by_cases hlt : i < 56
    · simp_all
    · have : w.getLsbD (8 + i) = false := BitVec.getLsbD_of_ge w (8 + i) (by omega)
      simp [this]
  · intro h
    ext i hi
    have hb := congrArg (fun v => v.getLsbD i) h
    simp at hb
    simp [mbz, hb]

/-- A row with a full mask matches exactly its own word. -/
theorem and_fullMask_beq (w v : Word) : (w &&& 0xFFFFFFFFFFFFFFFF == v) = (w == v) := by
  have h : (0xFFFFFFFFFFFFFFFF : Word) = BitVec.allOnes 64 := by decide
  rw [h, BitVec.and_allOnes]

/-- Every row of the table compares all 64 bits with its command's own word. -/
theorem opcodeTable_rows : ∀ r ∈ opcodeTable, r.word = encode r.instr ∧ r.mask = 0xFFFFFFFFFFFFFFFF := by
  decide

/-- A row of the table matches exactly its command's word. -/
theorem matchesWord_iff {r : OpcodeRow} (hr : r ∈ opcodeTable) (w : Word) :
    r.matchesWord w = true ↔ w = encode r.instr := by
  obtain ⟨hw, hm⟩ := opcodeTable_rows r hr
  rw [OpcodeRow.matchesWord, hm, and_fullMask_beq, beq_iff_eq, hw]

/-- A command's word decodes to the command. -/
theorem decode_encode (i : Instr) : decode (encode i) = .ok i := by
  cases i <;> decide

/-- The reserved bits of a command's word are zero. -/
theorem encode_shift (i : Instr) : encode i >>> 8 = 0 := by
  cases i <;> decide

/-- The whole of the decoder: a word has reserved bits, or is a command's word, or is an illegal opcode. -/
theorem decode_cases (w : Word) :
    (w >>> 8 ≠ 0 ∧ decode w = .error .reservedBits) ∨
    (∃ i, w = encode i ∧ decode w = .ok i) ∨
    (w >>> 8 = 0 ∧ (∀ i, w ≠ encode i) ∧ decode w = .error .illegalOpcode) := by
  by_cases hs : w >>> 8 = 0
  · by_cases hi : ∃ i, w = encode i
    · obtain ⟨i, rfl⟩ := hi
      exact .inr (.inl ⟨i, rfl, decode_encode i⟩)
    · simp only [not_exists] at hi
      refine .inr (.inr ⟨hs, hi, ?_⟩)
      have hnone : opcodeTable.find? (·.matchesWord w) = none :=
        List.find?_eq_none.mpr fun r hr hm => hi _ ((matchesWord_iff hr w).mp hm)
      rw [decode, hnone, if_neg (not_not.mpr ((mbz_eq_zero_iff w).mpr hs))]
  · refine .inl ⟨hs, ?_⟩
    rw [decode, if_pos (mt (mbz_eq_zero_iff w).mp hs)]

/-- No two rows of the opcode table match one word. -/
theorem opcodeTable_no_overlap : opcodeTable.Pairwise fun r s => r.word &&& s.mask ≠ s.word &&& r.mask := by
  decide

end Sys2Proof
end

