-- ==== Sys2Proof/Laws/State.lean ====
section
/-! SUPPORT. One lemma per field per register write of Machine/Ops.lean, so that no proof unfolds a record update. -/

namespace Sys2Proof.Machine.State

variable (s : State)

/-! ### `setKey` -/

@[simp] theorem setKey_key (v : Key) : (s.setKey v).key = v := rfl
@[simp] theorem setKey_ctr (v : Key) : (s.setKey v).ctr = s.ctr := rfl
@[simp] theorem setKey_cache (v : Key) : (s.setKey v).cache = s.cache := rfl
@[simp] theorem setKey_cidx (v : Key) : (s.setKey v).cidx = s.cidx := rfl
@[simp] theorem setKey_status (v : Key) : (s.setKey v).status = s.status := rfl
@[simp] theorem setKey_arg (v : Key) : (s.setKey v).arg = s.arg := rfl
@[simp] theorem setKey_res (v : Key) : (s.setKey v).res = s.res := rfl
@[simp] theorem setKey_permutes (v : Key) : (s.setKey v).permutes = s.permutes := rfl
@[simp] theorem setKey_pending (v : Key) : (s.setKey v).pending = s.pending := rfl
@[simp] theorem setKey_responses (v : Key) : (s.setKey v).responses = s.responses := rfl
@[simp] theorem setKey_freeNext (v : Key) : (s.setKey v).freeNext = s.freeNext := rfl

/-! ### `setCtr` -/

@[simp] theorem setCtr_key (v : Word) : (s.setCtr v).key = s.key := rfl
@[simp] theorem setCtr_ctr (v : Word) : (s.setCtr v).ctr = v := rfl
@[simp] theorem setCtr_cache (v : Word) : (s.setCtr v).cache = s.cache := rfl
@[simp] theorem setCtr_cidx (v : Word) : (s.setCtr v).cidx = s.cidx := rfl
@[simp] theorem setCtr_status (v : Word) : (s.setCtr v).status = s.status := rfl
@[simp] theorem setCtr_arg (v : Word) : (s.setCtr v).arg = s.arg := rfl
@[simp] theorem setCtr_res (v : Word) : (s.setCtr v).res = s.res := rfl
@[simp] theorem setCtr_permutes (v : Word) : (s.setCtr v).permutes = s.permutes := rfl
@[simp] theorem setCtr_pending (v : Word) : (s.setCtr v).pending = s.pending := rfl
@[simp] theorem setCtr_responses (v : Word) : (s.setCtr v).responses = s.responses := rfl
@[simp] theorem setCtr_freeNext (v : Word) : (s.setCtr v).freeNext = s.freeNext := rfl

/-! ### `setCache` -/

@[simp] theorem setCache_key (v : Block) : (s.setCache v).key = s.key := rfl
@[simp] theorem setCache_ctr (v : Block) : (s.setCache v).ctr = s.ctr := rfl
@[simp] theorem setCache_cache (v : Block) : (s.setCache v).cache = v := rfl
@[simp] theorem setCache_cidx (v : Block) : (s.setCache v).cidx = s.cidx := rfl
@[simp] theorem setCache_status (v : Block) : (s.setCache v).status = s.status := rfl
@[simp] theorem setCache_arg (v : Block) : (s.setCache v).arg = s.arg := rfl
@[simp] theorem setCache_res (v : Block) : (s.setCache v).res = s.res := rfl
@[simp] theorem setCache_permutes (v : Block) : (s.setCache v).permutes = s.permutes := rfl
@[simp] theorem setCache_pending (v : Block) : (s.setCache v).pending = s.pending := rfl
@[simp] theorem setCache_responses (v : Block) : (s.setCache v).responses = s.responses := rfl
@[simp] theorem setCache_freeNext (v : Block) : (s.setCache v).freeNext = s.freeNext := rfl

/-! ### `setCidx` -/

@[simp] theorem setCidx_key (v : Word) : (s.setCidx v).key = s.key := rfl
@[simp] theorem setCidx_ctr (v : Word) : (s.setCidx v).ctr = s.ctr := rfl
@[simp] theorem setCidx_cache (v : Word) : (s.setCidx v).cache = s.cache := rfl
@[simp] theorem setCidx_cidx (v : Word) : (s.setCidx v).cidx = v := rfl
@[simp] theorem setCidx_status (v : Word) : (s.setCidx v).status = s.status := rfl
@[simp] theorem setCidx_arg (v : Word) : (s.setCidx v).arg = s.arg := rfl
@[simp] theorem setCidx_res (v : Word) : (s.setCidx v).res = s.res := rfl
@[simp] theorem setCidx_permutes (v : Word) : (s.setCidx v).permutes = s.permutes := rfl
@[simp] theorem setCidx_pending (v : Word) : (s.setCidx v).pending = s.pending := rfl
@[simp] theorem setCidx_responses (v : Word) : (s.setCidx v).responses = s.responses := rfl
@[simp] theorem setCidx_freeNext (v : Word) : (s.setCidx v).freeNext = s.freeNext := rfl

/-! ### `setStatus` -/

@[simp] theorem setStatus_key (v : Word) : (s.setStatus v).key = s.key := rfl
@[simp] theorem setStatus_ctr (v : Word) : (s.setStatus v).ctr = s.ctr := rfl
@[simp] theorem setStatus_cache (v : Word) : (s.setStatus v).cache = s.cache := rfl
@[simp] theorem setStatus_cidx (v : Word) : (s.setStatus v).cidx = s.cidx := rfl
@[simp] theorem setStatus_status (v : Word) : (s.setStatus v).status = v := rfl
@[simp] theorem setStatus_arg (v : Word) : (s.setStatus v).arg = s.arg := rfl
@[simp] theorem setStatus_res (v : Word) : (s.setStatus v).res = s.res := rfl
@[simp] theorem setStatus_permutes (v : Word) : (s.setStatus v).permutes = s.permutes := rfl
@[simp] theorem setStatus_pending (v : Word) : (s.setStatus v).pending = s.pending := rfl
@[simp] theorem setStatus_responses (v : Word) : (s.setStatus v).responses = s.responses := rfl
@[simp] theorem setStatus_freeNext (v : Word) : (s.setStatus v).freeNext = s.freeNext := rfl

/-! ### `setArg` -/

@[simp] theorem setArg_key (i : Fin 8) (v : Word) : (s.setArg i v).key = s.key := rfl
@[simp] theorem setArg_ctr (i : Fin 8) (v : Word) : (s.setArg i v).ctr = s.ctr := rfl
@[simp] theorem setArg_cache (i : Fin 8) (v : Word) : (s.setArg i v).cache = s.cache := rfl
@[simp] theorem setArg_cidx (i : Fin 8) (v : Word) : (s.setArg i v).cidx = s.cidx := rfl
@[simp] theorem setArg_status (i : Fin 8) (v : Word) : (s.setArg i v).status = s.status := rfl
@[simp] theorem setArg_arg (i : Fin 8) (v : Word) : (s.setArg i v).arg = s.arg.set i v := rfl
@[simp] theorem setArg_res (i : Fin 8) (v : Word) : (s.setArg i v).res = s.res := rfl
@[simp] theorem setArg_permutes (i : Fin 8) (v : Word) : (s.setArg i v).permutes = s.permutes := rfl
@[simp] theorem setArg_pending (i : Fin 8) (v : Word) : (s.setArg i v).pending = s.pending := rfl
@[simp] theorem setArg_responses (i : Fin 8) (v : Word) : (s.setArg i v).responses = s.responses := rfl
@[simp] theorem setArg_freeNext (i : Fin 8) (v : Word) : (s.setArg i v).freeNext = s.freeNext := rfl

/-! ### `setRes` -/

@[simp] theorem setRes_key (i : Fin 5) (v : Word) : (s.setRes i v).key = s.key := rfl
@[simp] theorem setRes_ctr (i : Fin 5) (v : Word) : (s.setRes i v).ctr = s.ctr := rfl
@[simp] theorem setRes_cache (i : Fin 5) (v : Word) : (s.setRes i v).cache = s.cache := rfl
@[simp] theorem setRes_cidx (i : Fin 5) (v : Word) : (s.setRes i v).cidx = s.cidx := rfl
@[simp] theorem setRes_status (i : Fin 5) (v : Word) : (s.setRes i v).status = s.status := rfl
@[simp] theorem setRes_arg (i : Fin 5) (v : Word) : (s.setRes i v).arg = s.arg := rfl
@[simp] theorem setRes_res (i : Fin 5) (v : Word) : (s.setRes i v).res = s.res.set i v := rfl
@[simp] theorem setRes_permutes (i : Fin 5) (v : Word) : (s.setRes i v).permutes = s.permutes := rfl
@[simp] theorem setRes_pending (i : Fin 5) (v : Word) : (s.setRes i v).pending = s.pending := rfl
@[simp] theorem setRes_responses (i : Fin 5) (v : Word) : (s.setRes i v).responses = s.responses := rfl
@[simp] theorem setRes_freeNext (i : Fin 5) (v : Word) : (s.setRes i v).freeNext = s.freeNext := rfl

/-! ### `recordPermute` -/

@[simp] theorem recordPermute_key (b : Word) : (s.recordPermute b).key = s.key := rfl
@[simp] theorem recordPermute_ctr (b : Word) : (s.recordPermute b).ctr = s.ctr := rfl
@[simp] theorem recordPermute_cache (b : Word) : (s.recordPermute b).cache = s.cache := rfl
@[simp] theorem recordPermute_cidx (b : Word) : (s.recordPermute b).cidx = s.cidx := rfl
@[simp] theorem recordPermute_status (b : Word) : (s.recordPermute b).status = s.status := rfl
@[simp] theorem recordPermute_arg (b : Word) : (s.recordPermute b).arg = s.arg := rfl
@[simp] theorem recordPermute_res (b : Word) : (s.recordPermute b).res = s.res := rfl
@[simp] theorem recordPermute_permutes (b : Word) : (s.recordPermute b).permutes = s.permutes ++ [b] := rfl
@[simp] theorem recordPermute_pending (b : Word) : (s.recordPermute b).pending = s.pending := rfl
@[simp] theorem recordPermute_responses (b : Word) : (s.recordPermute b).responses = s.responses := rfl
@[simp] theorem recordPermute_freeNext (b : Word) : (s.recordPermute b).freeNext = s.freeNext := rfl

/-! ### `respond` -/

@[simp] theorem respond_key (r : Response) : (s.respond r).key = s.key := rfl
@[simp] theorem respond_ctr (r : Response) : (s.respond r).ctr = s.ctr := rfl
@[simp] theorem respond_cache (r : Response) : (s.respond r).cache = s.cache := rfl
@[simp] theorem respond_cidx (r : Response) : (s.respond r).cidx = s.cidx := rfl
@[simp] theorem respond_status (r : Response) : (s.respond r).status = s.status := rfl
@[simp] theorem respond_arg (r : Response) : (s.respond r).arg = s.arg := rfl
@[simp] theorem respond_res (r : Response) : (s.respond r).res = s.res := rfl
@[simp] theorem respond_permutes (r : Response) : (s.respond r).permutes = s.permutes := rfl
@[simp] theorem respond_pending (r : Response) : (s.respond r).pending = s.pending := rfl
@[simp] theorem respond_responses (r : Response) : (s.respond r).responses = s.responses ++ [r] := rfl
@[simp] theorem respond_freeNext (r : Response) : (s.respond r).freeNext = s.freeNext := rfl

/-! ### `setPending` -/

@[simp] theorem setPending_key (p : List PortEvent) : (s.setPending p).key = s.key := rfl
@[simp] theorem setPending_ctr (p : List PortEvent) : (s.setPending p).ctr = s.ctr := rfl
@[simp] theorem setPending_cache (p : List PortEvent) : (s.setPending p).cache = s.cache := rfl
@[simp] theorem setPending_cidx (p : List PortEvent) : (s.setPending p).cidx = s.cidx := rfl
@[simp] theorem setPending_status (p : List PortEvent) : (s.setPending p).status = s.status := rfl
@[simp] theorem setPending_arg (p : List PortEvent) : (s.setPending p).arg = s.arg := rfl
@[simp] theorem setPending_res (p : List PortEvent) : (s.setPending p).res = s.res := rfl
@[simp] theorem setPending_permutes (p : List PortEvent) : (s.setPending p).permutes = s.permutes := rfl
@[simp] theorem setPending_pending (p : List PortEvent) : (s.setPending p).pending = p := rfl
@[simp] theorem setPending_responses (p : List PortEvent) : (s.setPending p).responses = s.responses := rfl
@[simp] theorem setPending_freeNext (p : List PortEvent) : (s.setPending p).freeNext = s.freeNext := rfl

/-! ### The shared effects, in terms of the register writes -/

theorem invalidate_eq : s.invalidate = s.setCidx sentinel := rfl

theorem accept_eq : s.accept = s.setStatus 0 := rfl

theorem commandError_eq (e : CommandError) : s.commandError e = s.setStatus (errorStatus e) := rfl

/-! ### `invalidate` -/

@[simp] theorem invalidate_key : (s.invalidate).key = s.key := rfl
@[simp] theorem invalidate_ctr : (s.invalidate).ctr = s.ctr := rfl
@[simp] theorem invalidate_cache : (s.invalidate).cache = s.cache := rfl
@[simp] theorem invalidate_cidx : (s.invalidate).cidx = sentinel := rfl
@[simp] theorem invalidate_status : (s.invalidate).status = s.status := rfl
@[simp] theorem invalidate_arg : (s.invalidate).arg = s.arg := rfl
@[simp] theorem invalidate_res : (s.invalidate).res = s.res := rfl
@[simp] theorem invalidate_permutes : (s.invalidate).permutes = s.permutes := rfl
@[simp] theorem invalidate_pending : (s.invalidate).pending = s.pending := rfl
@[simp] theorem invalidate_responses : (s.invalidate).responses = s.responses := rfl
@[simp] theorem invalidate_freeNext : (s.invalidate).freeNext = s.freeNext := rfl

/-! ### `accept` -/

@[simp] theorem accept_key : (s.accept).key = s.key := rfl
@[simp] theorem accept_ctr : (s.accept).ctr = s.ctr := rfl
@[simp] theorem accept_cache : (s.accept).cache = s.cache := rfl
@[simp] theorem accept_cidx : (s.accept).cidx = s.cidx := rfl
@[simp] theorem accept_status : (s.accept).status = 0 := rfl
@[simp] theorem accept_arg : (s.accept).arg = s.arg := rfl
@[simp] theorem accept_res : (s.accept).res = s.res := rfl
@[simp] theorem accept_permutes : (s.accept).permutes = s.permutes := rfl
@[simp] theorem accept_pending : (s.accept).pending = s.pending := rfl
@[simp] theorem accept_responses : (s.accept).responses = s.responses := rfl
@[simp] theorem accept_freeNext : (s.accept).freeNext = s.freeNext := rfl

/-! ### `commandError` -/

@[simp] theorem commandError_key (e : CommandError) : (s.commandError e).key = s.key := rfl
@[simp] theorem commandError_ctr (e : CommandError) : (s.commandError e).ctr = s.ctr := rfl
@[simp] theorem commandError_cache (e : CommandError) : (s.commandError e).cache = s.cache := rfl
@[simp] theorem commandError_cidx (e : CommandError) : (s.commandError e).cidx = s.cidx := rfl
@[simp] theorem commandError_status (e : CommandError) : (s.commandError e).status = errorStatus e := rfl
@[simp] theorem commandError_arg (e : CommandError) : (s.commandError e).arg = s.arg := rfl
@[simp] theorem commandError_res (e : CommandError) : (s.commandError e).res = s.res := rfl
@[simp] theorem commandError_permutes (e : CommandError) : (s.commandError e).permutes = s.permutes := rfl
@[simp] theorem commandError_pending (e : CommandError) : (s.commandError e).pending = s.pending := rfl
@[simp] theorem commandError_responses (e : CommandError) : (s.commandError e).responses = s.responses := rfl
@[simp] theorem commandError_freeNext (e : CommandError) : (s.commandError e).freeNext = s.freeNext := rfl

/-! ### A reset event -/

@[simp] theorem resetEngine_key (F : Family) (n : Nat) :
    (s.resetEngine F n).key = #v[F.key0, F.key1, F.defSeed, F.defStream] := rfl
@[simp] theorem resetEngine_ctr (F : Family) (n : Nat) : (s.resetEngine F n).ctr = 0 := rfl
@[simp] theorem resetEngine_cache (F : Family) (n : Nat) : (s.resetEngine F n).cache = freeBlock n := rfl
@[simp] theorem resetEngine_cidx (F : Family) (n : Nat) : (s.resetEngine F n).cidx = sentinel := rfl
@[simp] theorem resetEngine_status (F : Family) (n : Nat) : (s.resetEngine F n).status = 0 := rfl
@[simp] theorem resetEngine_arg (F : Family) (n : Nat) : (s.resetEngine F n).arg = Vector.replicate 8 0 := rfl
@[simp] theorem resetEngine_res (F : Family) (n : Nat) : (s.resetEngine F n).res = Vector.replicate 5 0 := rfl
@[simp] theorem resetEngine_permutes (F : Family) (n : Nat) : (s.resetEngine F n).permutes = [] := rfl
@[simp] theorem resetEngine_pending (F : Family) (n : Nat) : (s.resetEngine F n).pending = s.pending := rfl
@[simp] theorem resetEngine_responses (F : Family) (n : Nat) : (s.resetEngine F n).responses = s.responses := rfl
@[simp] theorem resetEngine_freeNext (F : Family) (n : Nat) : (s.resetEngine F n).freeNext = n + 16 := rfl

@[simp] theorem applyReset_key :
    s.applyReset.key = #v[Config.family.key0, Config.family.key1, Config.family.defSeed, Config.family.defStream] := rfl
@[simp] theorem applyReset_ctr : s.applyReset.ctr = 0 := rfl
@[simp] theorem applyReset_cache : s.applyReset.cache = freeBlock s.freeNext := rfl
@[simp] theorem applyReset_cidx : s.applyReset.cidx = sentinel := rfl
@[simp] theorem applyReset_status : s.applyReset.status = 0 := rfl
@[simp] theorem applyReset_arg : s.applyReset.arg = Vector.replicate 8 0 := rfl
@[simp] theorem applyReset_res : s.applyReset.res = Vector.replicate 5 0 := rfl
@[simp] theorem applyReset_permutes : s.applyReset.permutes = [] := rfl
@[simp] theorem applyReset_pending : s.applyReset.pending = s.pending := rfl
@[simp] theorem applyReset_responses : s.applyReset.responses = s.responses := rfl
@[simp] theorem applyReset_freeNext : s.applyReset.freeNext = s.freeNext + 16 := rfl

end Sys2Proof.Machine.State
end

