-- ==== Sys2Proof/Laws/Draw.lean ====
section
/-! SUPPORT. What a draw reads and writes, said once. -/

namespace Sys2Proof.Machine

/-! ### Block indices -/

/-- A block index is below `2^60` (spec 10_state.md R25). -/
theorem blockIndex_lt (c : Word) : (blockIndex c).toNat < 2 ^ 60 := by
  have := c.isLt
  simp only [blockIndex, BitVec.toNat_ushiftRight, Nat.shiftRight_eq_div_pow]
  omega

/-- The sentinel is no block index (R25). -/
theorem blockIndex_ne_sentinel (c : Word) : blockIndex c ≠ sentinel := fun h => by
  have hlt := blockIndex_lt c
  rw [h] at hlt
  exact absurd hlt (by decide)

namespace State

variable (F : Family) (s : State)

/-! ### The cache refresh: everything it can do -/

/-- A hit leaves the state. -/
theorem refreshCache_hit (h : s.cidx = blockIndex s.ctr) : s.refreshCache F = s := if_pos h

/-- A miss fills the cache. -/
theorem refreshCache_miss (h : s.cidx ≠ blockIndex s.ctr) : s.refreshCache F = s.fillCache F := if_neg h

/-- The refresh leaves the state or fills the cache. -/
theorem refreshCache_cases : s.refreshCache F = s ∨ s.refreshCache F = s.fillCache F := by
  by_cases h : s.cidx = blockIndex s.ctr
  · exact .inl (refreshCache_hit F s h)
  · exact .inr (refreshCache_miss F s h)

@[simp] theorem fillCache_key : (s.fillCache F).key = s.key := rfl
@[simp] theorem fillCache_ctr : (s.fillCache F).ctr = s.ctr := rfl
@[simp] theorem fillCache_status : (s.fillCache F).status = s.status := rfl
@[simp] theorem fillCache_arg : (s.fillCache F).arg = s.arg := rfl
@[simp] theorem fillCache_res : (s.fillCache F).res = s.res := rfl
@[simp] theorem fillCache_pending : (s.fillCache F).pending = s.pending := rfl
@[simp] theorem fillCache_responses : (s.fillCache F).responses = s.responses := rfl
@[simp] theorem fillCache_freeNext : (s.fillCache F).freeNext = s.freeNext := rfl

@[simp] theorem refreshCache_key : (s.refreshCache F).key = s.key := by
  rcases refreshCache_cases F s with h | h <;> simp [h]
@[simp] theorem refreshCache_ctr : (s.refreshCache F).ctr = s.ctr := by
  rcases refreshCache_cases F s with h | h <;> simp [h]
@[simp] theorem refreshCache_status : (s.refreshCache F).status = s.status := by
  rcases refreshCache_cases F s with h | h <;> simp [h]
@[simp] theorem refreshCache_arg : (s.refreshCache F).arg = s.arg := by
  rcases refreshCache_cases F s with h | h <;> simp [h]
@[simp] theorem refreshCache_res : (s.refreshCache F).res = s.res := by
  rcases refreshCache_cases F s with h | h <;> simp [h]
@[simp] theorem refreshCache_pending : (s.refreshCache F).pending = s.pending := by
  rcases refreshCache_cases F s with h | h <;> simp [h]
@[simp] theorem refreshCache_responses : (s.refreshCache F).responses = s.responses := by
  rcases refreshCache_cases F s with h | h <;> simp [h]
@[simp] theorem refreshCache_freeNext : (s.refreshCache F).freeNext = s.freeNext := by
  rcases refreshCache_cases F s with h | h <;> simp [h]

/-- After the refresh the cache index is the counter's block index, on a hit and on a miss. -/
@[simp] theorem refreshCache_cidx : (s.refreshCache F).cidx = blockIndex s.ctr := by
  by_cases h : s.cidx = blockIndex s.ctr
  · rw [refreshCache_hit F s h, h]
  · rw [refreshCache_miss F s h]; rfl

/-- After the refresh of a valid cache the cache is the counter's block. -/
theorem refreshCache_cache (h : CacheValid F s) : (s.refreshCache F).cache = block F s.key (blockIndex s.ctr) := by
  by_cases he : s.cidx = blockIndex s.ctr
  · rw [refreshCache_hit F s he, h (he ▸ blockIndex_ne_sentinel s.ctr), he]
  · rw [refreshCache_miss F s he]; rfl

/-- The refresh records one PERMUTE on a miss and none on a hit. -/
theorem refreshCache_permutes :
    (s.refreshCache F).permutes = if s.cidx = blockIndex s.ctr then s.permutes else s.permutes ++ [blockIndex s.ctr] := by
  by_cases h : s.cidx = blockIndex s.ctr
  · rw [refreshCache_hit F s h, if_pos h]
  · rw [refreshCache_miss F s h, if_neg h]; rfl

/-! ### A draw: everything it can do -/

@[simp] theorem draw_key : (s.draw F).key = s.key := by simp [draw]
@[simp] theorem draw_ctr : (s.draw F).ctr = s.ctr + 1 := by simp [draw]
@[simp] theorem draw_status : (s.draw F).status = s.status := by simp [draw]
@[simp] theorem draw_arg : (s.draw F).arg = s.arg := by simp [draw]
@[simp] theorem draw_pending : (s.draw F).pending = s.pending := by simp [draw]
@[simp] theorem draw_responses : (s.draw F).responses = s.responses := by simp [draw]
@[simp] theorem draw_freeNext : (s.draw F).freeNext = s.freeNext := by simp [draw]
@[simp] theorem draw_cidx : (s.draw F).cidx = blockIndex s.ctr := by simp [draw]
@[simp] theorem draw_cache : (s.draw F).cache = (s.refreshCache F).cache := by simp [draw]
@[simp] theorem draw_permutes : (s.draw F).permutes = (s.refreshCache F).permutes := by simp [draw]

/-- A draw that hits. -/
theorem draw_hit (h : s.cidx = blockIndex s.ctr) :
    s.draw F = (s.setRes 0 s.cache[blockOffset s.ctr]).setCtr (s.ctr + 1) := by
  simp only [draw, refreshCache_hit F s h]

/-- A draw that misses. -/
theorem draw_miss (h : s.cidx ≠ blockIndex s.ctr) :
    s.draw F = ((s.fillCache F).setRes 0 (streamWord F s.key s.ctr)).setCtr (s.ctr + 1) := by
  simp only [draw, refreshCache_miss F s h]
  rfl

/-- The result of a draw, under a valid cache: the stream's word at the counter. -/
theorem draw_res (h : CacheValid F s) : (s.draw F).res = s.res.set 0 (streamWord F s.key s.ctr) := by
  simp [draw, streamWord, refreshCache_cache F s h]

/-- The word of a draw, under a valid cache. -/
theorem draw_res_zero (h : CacheValid F s) : (s.draw F).res[0] = streamWord F s.key s.ctr := by
  simp [draw_res F s h]

end State

end Sys2Proof.Machine
end

