-- ==== Sys2Proof/Laws/Exec.lean ====
section
/-! SUPPORT. Each command as one state update, and what all of them share. -/

namespace Sys2Proof.Machine

variable (s : State)

theorem exec_seed : exec .seed s = .next (s.seedWith (s.seedKey Config.family)).accept := rfl
theorem exec_seedDef : exec .seedDef s = .next (s.seedWith (defaultKey Config.family)).accept := rfl
theorem exec_seedEnt : exec .seedEnt s = .next (s.seedWith s.packedKey).accept := rfl
theorem exec_next : exec .next s = .next (s.draw Config.family).accept := rfl
theorem exec_discard : exec .discard s = .next (s.skip s.arg[0]).accept := rfl
theorem exec_equals :
    exec .equals s = .next (s.setRes 0 (boolWord (sameIdentityWords s.key s.ctr s.operandKey s.operandCtr))).accept := rfl
theorem exec_save : exec .save s = .next s.saveIdentity.accept := rfl
theorem exec_load : exec .load s = .next s.loadIdentity.accept := rfl
theorem exec_minval : exec .minval s = .next (s.setRes 0 0).accept := rfl
theorem exec_maxval : exec .maxval s = .next (s.setRes 0 maxWord).accept := rfl

/-- Every command gives a next state. -/
theorem exec_next_state (i : Instr) : ∃ t, exec i s = .next t := by
  cases i <;> exact ⟨_, rfl⟩

/-- No command touches the events still pending, the values given to hosts, or the free values. -/
theorem exec_hostSide {i : Instr} {s t : State} (h : exec i s = .next t) :
    t.pending = s.pending ∧ t.responses = s.responses ∧ t.freeNext = s.freeNext := by
  cases i <;> cases h <;>
    simp [State.seedWith, State.skip, State.saveIdentity, State.loadIdentity]

/-- No command writes an ARG register (spec 10_state.md R34). -/
theorem exec_arg {i : Instr} {s t : State} (h : exec i s = .next t) : t.arg = s.arg := by
  cases i <;> cases h <;>
    simp [State.seedWith, State.skip, State.saveIdentity, State.loadIdentity]

/-- The identity of two commands in a row does not depend on what STATUS was before them. -/
theorem exec_setStatus (i : Instr) (v : Word) : exec i (s.setStatus v) = exec i s := by
  cases i <;> try rfl
  simp only [exec_next, Host.Outcome.next.injEq]
  unfold State.draw State.refreshCache
  by_cases h : s.cidx = blockIndex s.ctr
  · simp only [State.setStatus_cidx, State.setStatus_ctr, h, if_true]; rfl
  · simp only [State.setStatus_cidx, State.setStatus_ctr, h, if_false]; rfl

end Sys2Proof.Machine
end

