-- ==== Sys2Proof/Laws/Port.lean ====
section
/-! SUPPORT. The register map, the port and sequences of events, said once. -/

namespace Sys2Proof.Machine

/-! ### The register map -/

@[simp] theorem registerAt_cmd : registerAt cmdOffset = .cmd := rfl

@[simp] theorem registerAt_arg (i : Fin 8) : registerAt (argOffset i) = .arg i := by revert i; decide

@[simp] theorem registerAt_res (i : Fin 5) : registerAt (resOffset i) = .res i := by revert i; decide

@[simp] theorem supported_cmd : supported cmdOffset 8 = true := rfl

@[simp] theorem supported_arg (i : Fin 8) : supported (argOffset i) 8 = true := by revert i; decide

@[simp] theorem supported_res (i : Fin 5) : supported (resOffset i) 8 = true := by revert i; decide

/-- Which accesses are supported (spec 20_memory.md R51). -/
theorem supported_iff (off bytes : Nat) : supported off bytes = true ↔ bytes = 8 ∧ off % 8 = 0 ∧ off ≤ 0xF8 := by
  simp [supported, and_assoc]

/-- Only offset 0 is CMD among the supported offsets. -/
theorem registerAt_eq_cmd {off : Nat} (h : registerAt off = .cmd) : off = cmdOffset := by
  unfold registerAt at h
  split_ifs at h
  assumption

/-- Only its own offset is ARG[i] among the offsets that are multiples of 8. -/
theorem registerAt_eq_arg {off : Nat} {i : Fin 8} (h8 : off % 8 = 0) (h : registerAt off = .arg i) :
    off = argOffset i := by
  unfold registerAt at h
  split_ifs at h
  cases h
  simp only [argOffset]
  omega

/-! ### The port -/

theorem executeWith_exec (v : Word) (s : State) : executeWith exec v s = executeWord v s := rfl

/-- A command word given to Execute is performed as its command. -/
@[simp] theorem executeWord_encode (i : Instr) (s : State) : executeWord (encode i) s = exec i s := by
  simp [executeWord, executeWith, decode_encode]

/-- Everything Execute can do: a command, or a command error. -/
theorem executeWord_cases (v : Word) (s : State) :
    (∃ i, v = encode i ∧ executeWord v s = exec i s) ∨ (∃ e, executeWord v s = .next (s.commandError e)) := by
  rcases decode_cases v with ⟨_, e⟩ | ⟨i, rfl, e⟩ | ⟨_, _, e⟩
  · exact .inr ⟨_, by rw [executeWord, executeWith, e]⟩
  · exact .inl ⟨i, rfl, executeWord_encode i s⟩
  · exact .inr ⟨_, by rw [executeWord, executeWith, e]⟩

@[simp] theorem portAccess_command (h : Nat) (i : Instr) (s : State) :
    portAccess h (commandAccess i) s = exec i s := by
  simp [portAccess, portAccessWith, commandAccess, writeRegisterWith, executeWith, decode_encode]

@[simp] theorem portAccess_argWrite (h : Nat) (i : Fin 8) (v : Word) (s : State) :
    portAccess h (argWrite i v) s = .next (s.setArg i v) := by
  simp [portAccess, portAccessWith, argWrite, writeRegisterWith]

@[simp] theorem portAccess_resRead (h : Nat) (i : Fin 5) (s : State) :
    portAccess h (resRead i) s = .next (s.respond ⟨h, resOffset i, s.res[i]⟩) := by
  simp [portAccess, portAccessWith, resRead, readRegister]

/-- Everything one event that gives a next state can do: a reset, a read, a command, a command error, a write of an
ARG register, or nothing. -/
theorem portEvent_cases {e : PortEvent} {s t : State} (h : portEvent e s = .next t) :
    (e = .reset ∧ t = s.applyReset) ∨
    (∃ g off, e = .access g (.read off 8) ∧ supported off 8 = true ∧
      t = s.respond ⟨g, off, readRegister Config.family s (registerAt off)⟩) ∨
    (∃ g i, e = .access g (commandAccess i) ∧ exec i s = .next t) ∨
    (∃ g v er, e = .access g (.write cmdOffset 8 v) ∧ t = s.commandError er) ∨
    (∃ g i v, e = .access g (argWrite i v) ∧ t = s.setArg i v) ∨
    (∃ g off v, e = .access g (.write off 8 v) ∧ t = s) := by
  rcases e with ⟨g, (⟨off, bytes⟩ | ⟨off, bytes, v⟩)⟩ | _
  · simp only [portEvent, portAccess, portAccessWith] at h
    split at h
    · rename_i hs
      obtain ⟨rfl, -, -⟩ := (supported_iff _ _).mp hs
      cases h
      exact .inr (.inl ⟨g, off, rfl, hs, rfl⟩)
    · cases h
  · simp only [portEvent, portAccess, portAccessWith] at h
    split at h
    · rename_i hs
      obtain ⟨rfl, h8, -⟩ := (supported_iff _ _).mp hs
      cases hr : registerAt off with
      | cmd =>
        rw [hr] at h
        obtain rfl := registerAt_eq_cmd hr
        rcases executeWord_cases v s with ⟨i, rfl, he⟩ | ⟨er, he⟩
        · exact .inr (.inr (.inl ⟨g, i, rfl, he ▸ h⟩))
        · simp only [writeRegisterWith, executeWith_exec, he] at h
          cases h
          exact .inr (.inr (.inr (.inl ⟨g, v, er, rfl, rfl⟩)))
      | arg i =>
        rw [hr] at h
        obtain rfl := registerAt_eq_arg h8 hr
        cases h
        exact .inr (.inr (.inr (.inr (.inl ⟨g, i, v, rfl, rfl⟩))))
      | status => rw [hr] at h; cases h; exact .inr (.inr (.inr (.inr (.inr ⟨g, off, v, rfl, rfl⟩))))
      | rounds => rw [hr] at h; cases h; exact .inr (.inr (.inr (.inr (.inr ⟨g, off, v, rfl, rfl⟩))))
      | res i => rw [hr] at h; cases h; exact .inr (.inr (.inr (.inr (.inr ⟨g, off, v, rfl, rfl⟩))))
      | reserved => rw [hr] at h; cases h; exact .inr (.inr (.inr (.inr (.inr ⟨g, off, v, rfl, rfl⟩))))
    · cases h
  · cases h
    exact .inl ⟨rfl, rfl⟩

/-! ### Steps and runs -/

theorem step_nil {s : State} (h : s.pending = []) : step s = .next s := by
  simp [step, portStep, h]

theorem step_cons {s : State} {e : PortEvent} {rest : List PortEvent} (h : s.pending = e :: rest) :
    step s = portEvent e (s.setPending rest) := by
  simp [step, portStep, h]

@[simp] theorem runEvents_nil (s : State) : runEvents [] s = .next s := rfl

theorem runEvents_cons {e : PortEvent} {s t : State} (h : portEvent e s = .next t) (es : List PortEvent) :
    runEvents (e :: es) s = runEvents es t := by
  simp [runEvents, h]

theorem runEvents_append {es : List PortEvent} {s t : State} (h : runEvents es s = .next t) (fs : List PortEvent) :
    runEvents (es ++ fs) s = runEvents fs t := by
  induction es generalizing s with
  | nil => cases h; rfl
  | cons e es ih =>
    simp only [runEvents, List.cons_append] at h ⊢
    cases hp : portEvent e s with
    | next u => rw [hp] at h; exact ih h
    | fault f => rw [hp] at h; cases h
    | refused r => rw [hp] at h; cases h

@[simp] theorem runAccesses_nil (h : Nat) (s : State) : runAccesses h [] s = .next s := rfl

theorem runAccesses_cons {h : Nat} {a : Access} {s t : State} (ha : portAccess h a s = .next t) (as : List Access) :
    runAccesses h (a :: as) s = runAccesses h as t :=
  runEvents_cons (e := .access h a) ha _

/-! ### Runs of the host's interface -/

@[simp] theorem core_run_zero (s : State) : Sys2Proof.core.run 0 s = .next s := rfl

theorem core_run_next {s t : State} (h : step s = .next t) (n : Nat) :
    Sys2Proof.core.run (n + 1) s = Sys2Proof.core.run n t := by
  have h' : Sys2Proof.core.step s = .next t := h
  simp [Host.Core.run, h']

theorem core_run_fault {s : State} {f : Fault} (h : step s = .fault f) (n : Nat) :
    Sys2Proof.core.run (n + 1) s = .fault f := by
  have h' : Sys2Proof.core.step s = .fault f := h
  simp [Host.Core.run, h']

/-- A supported event gives a next state and leaves the events still pending. -/
theorem portEvent_supported {e : PortEvent} (he : e.isSupported = true) (s : State) :
    ∃ t, portEvent e s = .next t ∧ t.pending = s.pending := by
  rcases e with ⟨g, (⟨off, bytes⟩ | ⟨off, bytes, v⟩)⟩ | _
  · have hs : supported off bytes = true := he
    exact ⟨s.respond _, by rw [portEvent, portAccess, portAccessWith, if_pos hs], rfl⟩
  · have hs : supported off bytes = true := he
    rw [portEvent, portAccess, portAccessWith, if_pos hs]
    cases registerAt off with
    | cmd =>
      rcases executeWord_cases v s with ⟨i, rfl, h⟩ | ⟨er, h⟩
      · obtain ⟨t, ht⟩ := exec_next_state s i
        exact ⟨t, by rw [writeRegisterWith, executeWith_exec, h, ht], (exec_hostSide ht).1⟩
      · exact ⟨s.commandError er, by rw [writeRegisterWith, executeWith_exec, h], rfl⟩
    | arg i => exact ⟨s.setArg i v, rfl, rfl⟩
    | status => exact ⟨s, rfl, rfl⟩
    | rounds => exact ⟨s, rfl, rfl⟩
    | res i => exact ⟨s, rfl, rfl⟩
    | reserved => exact ⟨s, rfl, rfl⟩
  · exact ⟨s.applyReset, rfl, rfl⟩

end Sys2Proof.Machine
end

