-- ==== Sys2Proof/Laws/Engine.lean ====
section
/-! SUPPORT. Engines typed by their family, and their saved states, said once. -/

namespace Sys2Proof.Machine

/-! ### One engine of any family -/

/-- The engine of this build is the one of its family. -/
theorem execOf_family (i : Instr) (s : State) : execOf Config.family i s = exec i s := by cases i <;> rfl

theorem portAccessOf_family (h : Nat) (a : Access) (s : State) : portAccessOf Config.family h a s = portAccess h a s := by
  have hx : execOf Config.family = exec := funext fun i => funext (execOf_family i)
  rw [portAccessOf, hx, portAccess]

/-- Commands that read no family parameter are the same on every family. -/
theorem execOf_eq_exec (F : Family) {i : Instr} (h : i ∉ [Instr.seed, Instr.seedDef, Instr.next]) (s : State) :
    execOf F i s = exec i s := by
  cases i <;> first | rfl | simp at h

/-- A command word given to Execute is performed as its command, whatever the commands are. -/
@[simp] theorem executeWith_encode (run : Commands) (i : Instr) (s : State) : executeWith run (encode i) s = run i s := by
  simp [executeWith, decode_encode]

@[simp] theorem portAccessOf_command (F : Family) (h : Nat) (i : Instr) (s : State) :
    portAccessOf F h (commandAccess i) s = execOf F i s := by
  simp [portAccessOf, portAccessWith, commandAccess, writeRegisterWith]

@[simp] theorem portAccessOf_argWrite (F : Family) (h : Nat) (i : Fin 8) (v : Word) (s : State) :
    portAccessOf F h (argWrite i v) s = .next (s.setArg i v) := by
  simp [portAccessOf, portAccessWith, argWrite, writeRegisterWith]

@[simp] theorem portAccessOf_resRead (F : Family) (h : Nat) (i : Fin 5) (s : State) :
    portAccessOf F h (resRead i) s = .next (s.respond ⟨h, resOffset i, s.res[i]⟩) := by
  simp [portAccessOf, portAccessWith, resRead, readRegister]

@[simp] theorem runAccessesOf_nil (F : Family) (h : Nat) (s : State) : runAccessesOf F h [] s = .next s := rfl

theorem runAccessesOf_cons {F : Family} {h : Nat} {a : Access} {s t : State} (ha : portAccessOf F h a s = .next t)
    (as : List Access) : runAccessesOf F h (a :: as) s = runAccessesOf F h as t := by
  simp [runAccessesOf, ha]

/-- Accesses to the engine of this build are accesses to the machine of `step`. -/
theorem runAccessesOf_family (h : Nat) (as : List Access) (s : State) :
    runAccessesOf Config.family h as s = runAccesses h as s := by
  induction as generalizing s with
  | nil => rfl
  | cons a as ih =>
    simp only [runAccessesOf, runAccesses, List.map_cons, runEvents, portEvent, portAccessOf_family]
    cases portAccess h a s with
    | next t => exact ih t
    | fault f => rfl
    | refused r => rfl

/-! ### Outcomes, engines and Equal -/

@[simp] theorem mapNext_next {α β : Type} (f : α → β) (t : α) : mapNext f (.next t) = .next (f t) := rfl
@[simp] theorem mapNext_fault {α β : Type} (f : α → β) (e : Fault) : mapNext f (.fault e) = .fault e := rfl
@[simp] theorem mapNext_refused {α β : Type} (f : α → β) (r : Refusal) : mapNext f (.refused r) = .refused r := rfl

@[simp] theorem Engine.reset_state {F : Family} (e : Engine F) (n : Nat) : (e.reset n).state = e.state.resetEngine F n := rfl
@[simp] theorem Engine.resetFrom_state (F : Family) (n : Nat) : (Engine.resetFrom F n).state = State.resetFrom F n := rfl
@[simp] theorem Engine.identity_key {F : Family} (e : Engine F) : e.identity.key = e.state.key := rfl
@[simp] theorem Engine.identity_ctr {F : Family} (e : Engine F) : e.identity.ctr = e.state.ctr := rfl
@[simp] theorem State.identity_key (s : State) : s.identity.key = s.key := rfl
@[simp] theorem State.identity_ctr (s : State) : s.identity.ctr = s.ctr := rfl

/-- What an access to an engine can do. -/
theorem Engine.access_next {F : Family} {e : Engine F} {h : Nat} {a : Access} {t : State}
    (ha : portAccessOf F h a e.state = .next t) : e.access h a = .next ⟨t⟩ := by
  simp [Engine.access, ha]

end Sys2Proof.Machine
end

