-- ==== Sys2Proof/Laws/Operands.lean ====
section
/-! SUPPORT. What the operand forms read, and the register vectors word by word, said once. -/

namespace Sys2Proof.Machine

/-- Packing, unfolded. -/
theorem packWords_eq (hi lo : HalfWord) : packWords hi lo = (hi.setWidth 64 <<< 32) ||| lo.setWidth 64 := by
  rw [packWords]

/-- SEED_ENT reads the low halves of ARG only. -/
theorem packedKey_congr_low {s t : State}
    (h : ∀ j : Fin 8, s.arg[j].extractLsb' 0 32 = t.arg[j].extractLsb' 0 32) : s.packedKey = t.packedKey := by
  simp only [State.packedKey, State.entropyWord, State.operand, h]

/-- The operand registers read ARG only, so two states with the same ARG have the same operands. -/
theorem packedKey_congr {s t : State} (h : s.arg = t.arg) : s.packedKey = t.packedKey :=
  packedKey_congr_low fun j => by rw [h]

theorem operandKey_congr {s t : State} (h : s.arg = t.arg) : s.operandKey = t.operandKey := by
  simp only [State.operandKey, State.operand, h]

theorem operandCtr_congr {s t : State} (h : s.arg = t.arg) : s.operandCtr = t.operandCtr := by
  simp only [State.operandCtr, State.operand, h]

/-- A key from its four words. -/
@[simp] theorem Key.eta (k : Key) : #v[k[0], k[1], k[2], k[3]] = k := by
  ext i hi
  have : i = 0 ∨ i = 1 ∨ i = 2 ∨ i = 3 := by omega
  rcases this with rfl | rfl | rfl | rfl <;> rfl

/-- The comparison of the five identity words is equality of key and counter. -/
theorem sameIdentityWords_eq_true {k k' : Key} {c c' : Word} :
    sameIdentityWords k c k' c' = true ↔ k = k' ∧ c = c' := by
  simp only [sameIdentityWords, Bool.and_eq_true, beq_iff_eq]
  constructor
  · rintro ⟨⟨⟨⟨h0, h1⟩, h2⟩, h3⟩, h4⟩
    exact ⟨by rw [← Key.eta k, ← Key.eta k', h0, h1, h2, h3], h4⟩
  · rintro ⟨rfl, rfl⟩
    simp

/-- Five writes fill the result registers. -/
theorem set_all_res (r : Vector Word 5) (a b c d e : Word) :
    ((((r.set 0 a).set 1 b).set 2 c).set 3 d).set 4 e = #v[a, b, c, d, e] := by
  ext i hi
  have : i = 0 ∨ i = 1 ∨ i = 2 ∨ i = 3 ∨ i = 4 := by omega
  rcases this with rfl | rfl | rfl | rfl | rfl <;> simp

/-- Five writes fill the first five operand registers. -/
theorem set_first_args (r : Vector Word 8) (a b c d e : Word) :
    ((((r.set 0 a).set 1 b).set 2 c).set 3 d).set 4 e = #v[a, b, c, d, e, r[5], r[6], r[7]] := by
  ext i hi
  have : i = 0 ∨ i = 1 ∨ i = 2 ∨ i = 3 ∨ i = 4 ∨ i = 5 ∨ i = 6 ∨ i = 7 := by omega
  rcases this with rfl | rfl | rfl | rfl | rfl | rfl | rfl | rfl <;> simp

end Sys2Proof.Machine
end

