-- ==== Sys2Proof/Laws/PerInstr.lean ====
section
/-! SUPPORT. Families of facts about each command as syntax, one lemma per constructor. -/

namespace Sys2Proof.Laws.OpcodeGroup

/-- A command's word has a zero must-be-zero field and an opcode in the range of its group
(spec 30_encoding.md R70, R73): first and last opcode of the group of each command. -/
def group : Instr → BitVec 8 × BitVec 8
  | .seed => (0x01, 0x0F)
  | .seedDef => (0x01, 0x0F)
  | .seedEnt => (0x01, 0x0F)
  | .next => (0x10, 0x1F)
  | .discard => (0x10, 0x1F)
  | .equals => (0x20, 0x2F)
  | .save => (0x30, 0x3F)
  | .load => (0x30, 0x3F)
  | .minval => (0x40, 0x4F)
  | .maxval => (0x40, 0x4F)

/-- The command's word is well formed and its opcode lies in its group. -/
def Statement (i : Instr) : Prop :=
  wordWellFormed (encode i) = true ∧ i.wellFormed = true ∧ (group i).1 ≤ opc (encode i) ∧ opc (encode i) ≤ (group i).2

theorem seed : Statement .seed := by unfold Statement; decide
theorem seedDef : Statement .seedDef := by unfold Statement; decide
theorem seedEnt : Statement .seedEnt := by unfold Statement; decide
theorem next : Statement .next := by unfold Statement; decide
theorem discard : Statement .discard := by unfold Statement; decide
theorem equals : Statement .equals := by unfold Statement; decide
theorem save : Statement .save := by unfold Statement; decide
theorem load : Statement .load := by unfold Statement; decide
theorem minval : Statement .minval := by unfold Statement; decide
theorem maxval : Statement .maxval := by unfold Statement; decide

end Sys2Proof.Laws.OpcodeGroup
end

