-- ==== Sys2Proof/Laws/Permutation.lean ====
section
/-! SUPPORT. What each part of the permutation reads and writes, said once. -/

namespace Sys2Proof.Machine

variable (x : Block)

/-! ### The three steps of a quarter-round write one position -/

@[simp] theorem addAt_self (a b : Fin 16) : (addAt x a b)[a] = x[a] + x[b] := by simp [addAt]

@[simp] theorem xorAt_self (d a : Fin 16) : (xorAt x d a)[d] = x[d] ^^^ x[a] := by simp [xorAt]

@[simp] theorem rotAt_self (d : Fin 16) (n : Nat) : (rotAt x d n)[d] = rotr x[d] n := by simp [rotAt]

theorem addAt_ne {a e : Fin 16} (b : Fin 16) (h : e ≠ a) : (addAt x a b)[e] = x[e] := by
  simp [addAt, Fin.val_ne_of_ne h.symm]

theorem xorAt_ne {d e : Fin 16} (a : Fin 16) (h : e ≠ d) : (xorAt x d a)[e] = x[e] := by
  simp [xorAt, Fin.val_ne_of_ne h.symm]

theorem rotAt_ne {d e : Fin 16} (n : Nat) (h : e ≠ d) : (rotAt x d n)[e] = x[e] := by
  simp [rotAt, Fin.val_ne_of_ne h.symm]

/-- Two blocks with the same word at every position are the same. -/
theorem Block.ext_fin {x y : Block} (h : ∀ i : Fin 16, x[i] = y[i]) : x = y :=
  Vector.ext fun i hi => h ⟨i, hi⟩

/-! ### Rounds and feed-forward -/

@[simp] theorem mixRounds_zero : mixRounds 0 x = x := rfl

theorem mixRounds_succ (n : Nat) : mixRounds (n + 1) x = mixRounds n (mixRound x) := rfl

@[simp] theorem feedForward_getElem (y : Block) (i : Fin 16) : (feedForward x y)[i] = x[i] + y[i] := by
  simp [feedForward]

theorem block_eq (F : Family) (k : Key) (b : Word) :
    block F k b = feedForward (mixRounds F.rounds.toNat (inputVector F k b)) (inputVector F k b) := by
  rw [block]

end Sys2Proof.Machine
end

