-- ==== Sys2Proof/Laws/Platform.lean ====
section
/-! SUPPORT. Windows, and the start and reset of a platform, said once. -/

namespace Sys2Proof.Machine

/-! ### Windows and accesses -/

theorem windowOffset_eq_some {base addr off : Nat} :
    windowOffset base addr = some off ↔ base ≤ addr ∧ addr < base + windowSize ∧ addr = base + off := by
  unfold windowOffset
  split_ifs with h
  · simp only [Option.some.injEq]; omega
  · simp only [false_iff]; omega

/-- The engine whose window holds the address performs the access; the engines after it stay. -/
theorem platformAccess_here {h : Nat} {a : Access} {p : PlacedEngine} {off : Nat}
    (hp : windowOffset p.base a.place = some off) (ps : Platform) :
    platformAccess h a (p :: ps) =
      mapNext (fun t => { p with engine := t } :: ps) (p.engine.access h (a.relocate off)) := by
  simp [platformAccess, hp]

/-- An engine whose window does not hold the address stays before whatever the engines after it do. -/
theorem platformAccess_later {h : Nat} {a : Access} {p : PlacedEngine} (hp : windowOffset p.base a.place = none)
    (ps : Platform) : platformAccess h a (p :: ps) = mapNext (fun qs => p :: qs) (platformAccess h a ps) := by
  simp [platformAccess, hp]

/-! ### Start and reset -/

@[simp] theorem startPlatform_length (n : Nat) (places : List (Nat × Family)) :
    (startPlatform n places).length = places.length := by
  induction places generalizing n with
  | nil => rfl
  | cons x xs ih => obtain ⟨b, F⟩ := x; simp [startPlatform, ih]

@[simp] theorem resetAt_length (base n : Nat) (ps : Platform) : (resetAt base n ps).length = ps.length := by
  induction ps with
  | nil => rfl
  | cons p ps ih => simp only [resetAt]; split <;> simp [ih]

/-- The values after the reset of an engine. -/
theorem resetEngine_hasResetValues (F : Family) (n : Nat) (s : State) : HasResetValues F (s.resetEngine F n) :=
  ⟨rfl, rfl, rfl, fun i => by simp, fun i => by simp, rfl, rfl⟩

theorem resetFrom_hasResetValues (F : Family) (n : Nat) : HasResetValues F (State.resetFrom F n) :=
  resetEngine_hasResetValues F n ⟨#v[0, 0, 0, 0], 0, Vector.replicate 16 0, 0, 0, Vector.replicate 8 0, Vector.replicate 5 0,
    [], [], [], 0⟩

/-- The reset draws free values that no engine has drawn. -/
theorem le_freshFrom {ps : Platform} {p : PlacedEngine} (h : p ∈ ps) : p.engine.state.freeNext ≤ freshFrom ps := by
  induction ps with
  | nil => cases h
  | cons q qs ih =>
    rcases List.mem_cons.mp h with rfl | h
    · exact Nat.le_max_left ..
    · exact (ih h).trans (Nat.le_max_right ..)

end Sys2Proof.Machine
end

