-- ==== Sys2Proof/Tests/Slice0.lean ====
section
/-! SUPPORT. Tests of the model, with expected values from the spec, and a witness for the hypotheses of each statement. -/

namespace Sys2Proof.Tests

open Sys2Proof Sys2Proof.Machine

/-! ### Helpers -/

/-- A state with every field empty or zero and no valid cache. -/
def blank : State where
  key := #v[0, 0, 0, 0]
  ctr := 0
  cache := Vector.replicate 16 0
  cidx := 0xFFFFFFFFFFFFFFFF
  status := 0
  arg := Vector.replicate 8 0
  res := Vector.replicate 5 0
  permutes := []
  pending := []
  responses := []
  freeNext := 0

/-- `blank` after `SEED 1, 2` under the test configuration T1 (95_test_vectors.md P1). -/
def seeded : State := { blank with key := #v[10, 11, 1, 2] }

/-- `blank` with operands. -/
def withArgs (arg : Vector Word 8) : State := { blank with arg := arg }

/-- `blank` with a valid cache of block `b`, under the family of this build. -/
def cached (b : Word) : State := { blank with cidx := b, cache := block Config.family blank.key b }

/-- A field of the next state. -/
def after {α : Type} (o : Host.Outcome State Fault Refusal) (f : State → α) : Option α :=
  match o with
  | .next t => some (f t)
  | .fault _ => none
  | .refused _ => none

/-- Draws under a given family, one after another. -/
def draws (F : Family) : Nat → State → State
  | 0, s => s
  | n + 1, s => draws F n (s.draw F)

/-! ### Well-formedness: each check refuses an ill-formed term -/

theorem test_wellFormed_refuses_mbz : mbzWellFormed 0x110 = false ∧ wordWellFormed 0x110 = false := by decide

theorem test_wellFormed_refuses_opc : opcWellFormed 0x12 = false ∧ wordWellFormed 0x12 = false := by decide

theorem test_wellFormed_refuses_operand_count : operandCountWellFormed .seed [1] = false := by decide

theorem test_wellFormed_refuses_operand_form : operandCountWellFormed .next [] = false := by decide

theorem test_wellFormed_refuses_operand_range : operandRangeWellFormed [0, 2 ^ 64] = false := by decide

theorem test_wellFormed_refuses_entropy_range : entropyRangeWellFormed .seedEnt [0, 2 ^ 32] = false := by decide

/-! ### Decoding: MBZ in bits 63:8 and OPC in bits 7:0, written out bit by bit from 30_encoding.md R70 and R72 -/

theorem test_decode_seed : decode ((0 : BitVec 56) ++ 0b00000001#8) = .ok .seed := by decide
theorem test_decode_seedDef : decode ((0 : BitVec 56) ++ 0b00000010#8) = .ok .seedDef := by decide
theorem test_decode_seedEnt : decode ((0 : BitVec 56) ++ 0b00000011#8) = .ok .seedEnt := by decide
theorem test_decode_next : decode ((0 : BitVec 56) ++ 0b00010000#8) = .ok .next := by decide
theorem test_decode_discard : decode ((0 : BitVec 56) ++ 0b00010001#8) = .ok .discard := by decide
theorem test_decode_equals : decode ((0 : BitVec 56) ++ 0b00100000#8) = .ok .equals := by decide
theorem test_decode_save : decode ((0 : BitVec 56) ++ 0b00110000#8) = .ok .save := by decide
theorem test_decode_load : decode ((0 : BitVec 56) ++ 0b00110001#8) = .ok .load := by decide
theorem test_decode_minval : decode ((0 : BitVec 56) ++ 0b01000000#8) = .ok .minval := by decide
theorem test_decode_maxval : decode ((0 : BitVec 56) ++ 0b01000001#8) = .ok .maxval := by decide

/-- R74(b): the 246 reserved opcodes are illegal. -/
theorem test_decode_reserved_opcodes :
    ((List.range 256).filter fun n => decode (BitVec.ofNat 64 n) = .error .illegalOpcode) =
      [0x00] ++ List.range' 0x04 12 ++ List.range' 0x12 14 ++ List.range' 0x21 15 ++ List.range' 0x32 14 ++
        List.range' 0x42 190 := by decide +kernel

/-- R74(a), V-ERR-2, V-ERR-4: NEXT with a reserved bit set, lowest and highest. -/
theorem test_decode_reserved_bits :
    decode 0x110 = .error .reservedBits ∧ decode 0x8000000000000010 = .error .reservedBits := by decide

theorem test_decodeTableWord : decodeTableWord 64 0x31 = some .load ∧ decodeTableWord 64 0x110 = none := by decide

/-! ### Words and blocks (95_test_vectors.md, sections 2.1 to 2.3) -/

/-- V-ROT-2, V-ROT-4, V-ROT-5. -/
theorem test_rotr :
    rotr 0x0123456789abcdef 24 = 0xabcdef0123456789 ∧ rotr 0x0123456789abcdef 63 = 0x02468acf13579bde ∧
    rotr 0x8000000000000001 63 = 3 := by decide

/-- V-QR-2. -/
theorem test_quarterRound_one :
    (quarterRound ((Vector.replicate 16 0).set 0 1) 0 1 2 3).toList.take 4 =
      [0x0000000000000101, 0x0202000200020200, 0x0101000100010000, 0x0101000000010000] := by decide +kernel

/-- V-QR-5. -/
theorem test_quarterRound_mixed :
    (quarterRound
        ((((Vector.replicate 16 0).set 0 0x0123456789abcdef).set 1 0xfedcba9876543210).set 2 0x0f0f0f0f0f0f0f0f |>.set 3
          0xf0f0f0f0f0f0f0f0) 0 1 2 3).toList.take 4 =
      [0x4a2c0ee0c2a48667, 0xdb54db43c552db43, 0xa7866341200debc9, 0x8968452301efcdab] := by decide +kernel

/-- V-BLK-2: no rounds. -/
theorem test_block_no_rounds :
    block { testFamilyT1 with rounds := 0 } #v[0, 0, 0, 0] 0 =
      #v[2, 4, 6, 8, 0, 0, 0, 0, 0xa, 0xc, 0xe, 0x10, 0x12, 2, 0, 0] := by decide +kernel

/-- V-BLK-3: one round. -/
theorem test_block_one_round :
    block { testFamilyT0 with rounds := 1 } #v[0, 0, 0, 0] 0 =
      #v[0x0402020402040402, 0x0000000000010100, 0x0000000001000001, 0x0100000100000100,
         0x0600020000040200, 0x0c000804000c0408, 0x0200020002020002, 0x0004000200000002,
         0x0002000101000000, 0x0200010100020000, 0x0402060002040006, 0x0100010001000001,
         0x0100000001000001, 0x0001000100000001, 0x0100010000010000, 0x0400040000040004] := by decide +kernel

/-- V-BLK-8: ten rounds, the last block before the counter wraps. -/
theorem test_block_ten_rounds :
    block testFamilyT1 #v[10, 11, 1, 2] 0x0fffffffffffffff =
      #v[0x2907e842b2cac011, 0x7ba4114b2e92e3b7, 0xf18eb50c09838b77, 0x6d376082969c6cee,
         0xf0817b2e6a1bd171, 0x15e9f349a076f62e, 0x7da3af36ae5c64bf, 0xf10cd31b8155f768,
         0x93114cfb3c86fd3c, 0xdbd81fd7b5db1f55, 0xdd9105dae3b4ae64, 0x01339611e46fb641,
         0x5f72989cf55ff125, 0x7989f15f6dc19f84, 0xd8575c1618f49732, 0x09dc9d0783b80d7a] := by decide +kernel

/-! ### Commands (95_test_vectors.md, sections 2.4 to 2.8) -/

/-- V-SEED-1 under T1, on the operation SEED is made of. -/
theorem test_seed_key : (withArgs #v[1, 2, 0, 0, 0, 0, 0, 0]).seedKey testFamilyT1 = #v[10, 11, 1, 2] := by decide

/-- V-SEED-2 under T1. -/
theorem test_seedDef_key : defaultKey testFamilyT1 = #v[10, 11, 12, 13] := by decide

/-- V-SEED-5: the upper halves of the operands are ignored. -/
theorem test_seedEnt_ignores_upper_halves :
    after (exec .seedEnt (withArgs (Vector.ofFn fun i => 0xFFFFFFFF00000000 ||| BitVec.ofNat 64 i))) State.key =
      some #v[0x0000000000000001, 0x0000000200000003, 0x0000000400000005, 0x0000000600000007] := by decide +kernel

/-- V-SEED-6. -/
theorem test_seedEnt_example :
    after (exec .seedEnt (withArgs #v[0x01234567, 0x89ABCDEF, 0x00000000, 0xFFFFFFFF, 0xDEADBEEF, 0x00000001, 0x80000000,
        0x7FFFFFFF])) State.key =
      some #v[0x0123456789abcdef, 0x00000000ffffffff, 0xdeadbeef00000001, 0x800000007fffffff] := by decide +kernel

/-- V-DRAW-1 and V-DRAW-2: a miss, then a hit. -/
theorem test_draw_miss_then_hit :
    let t := seeded.draw testFamilyT1
    let u := t.draw testFamilyT1
    t.res[0] = 0xd2317e1192fb8730 ∧ t.ctr = 1 ∧ t.cidx = 0 ∧ t.permutes = [0] ∧
    u.res[0] = 0x74175dddca3549ff ∧ u.ctr = 2 ∧ u.permutes = [0] := by decide +kernel

/-- V-DRAW-5: the top of the counter. -/
theorem test_draw_wraps :
    let t := (seeded.setCtr 0xffffffffffffffff).draw testFamilyT1
    t.res[0] = 0x09dc9d0783b80d7a ∧ t.ctr = 0 ∧ t.cidx = 0x0fffffffffffffff := by decide +kernel

/-- V-DRAW-3: sixteen draws record one PERMUTE. -/
theorem test_draw_sixteen :
    let t := draws testFamilyT1 16 seeded
    t.res[0] = 0x3dbacb6b2b3671ec ∧ t.ctr = 16 ∧ t.cidx = 0 ∧ t.permutes = [0] := by decide +kernel

/-- V-DISC-4: DISCARD wraps, and leaves the cache index. -/
theorem test_discard_wraps :
    after (exec .discard { withArgs #v[5, 0, 0, 0, 0, 0, 0, 0] with ctr := 0xfffffffffffffffd, cidx := 7 })
      (fun t => (t.ctr, t.cidx)) = some (2, 7) := by decide

/-- V-DISC-5: after a skip that wraps back into the cached block the draw hits. -/
theorem test_discard_then_hit :
    let s := seeded.draw testFamilyT1
    let t := (s.skip 0xffffffffffffffff).draw testFamilyT1
    t.res[0] = 0xd2317e1192fb8730 ∧ t.ctr = 1 ∧ t.permutes = [0] := by decide +kernel

/-- V-EQ-1: all five words agree. -/
theorem test_equals_one :
    after (exec .equals { seeded with arg := #v[10, 11, 1, 2, 0, 9, 9, 9] }) (·.res) = some #v[1, 0, 0, 0, 0] := by decide

/-- V-EQ-2, V-EQ-3: the counter differs; one bit of key word 0 differs. -/
theorem test_equals_zero :
    after (exec .equals { seeded with arg := #v[10, 11, 1, 2, 1, 0, 0, 0], res := #v[7, 7, 7, 7, 7] }) (·.res) =
      some #v[0, 7, 7, 7, 7] ∧
    after (exec .equals { seeded with arg := #v[10 ^^^ 1, 11, 1, 2, 0, 0, 0, 0] }) (·.res[0]) = some 0 := by decide

/-- V-SAVE-1. -/
theorem test_save :
    after (exec .save { seeded with ctr := 2, cidx := 0 }) (fun t => (t.res, t.cidx)) = some (#v[10, 11, 1, 2, 2], 0) := by
  decide

/-- V-DRAW-6's LOAD. -/
theorem test_load :
    after (exec .load { withArgs #v[10, 11, 1, 2, 17, 0, 0, 0] with cidx := 1 }) (fun t => (t.key, t.ctr, t.cidx)) =
      some (#v[10, 11, 1, 2], 17, 0xFFFFFFFFFFFFFFFF) := by decide

/-- V-INFO-1. -/
theorem test_minval :
    after (exec .minval { blank with res := #v[5, 6, 7, 8, 9], status := 0x101 }) (fun t => (t.res, t.status)) =
      some (#v[0, 6, 7, 8, 9], 0) := by decide

/-- V-INFO-2. -/
theorem test_maxval :
    after (exec .maxval blank) (·.res) = some #v[0xffffffffffffffff, 0, 0, 0, 0] := by decide

/-! ### Port, errors, accesses -/

/-- V-ERR-1, V-ERR-2, V-ERR-5: errors, and the next accepted command. -/
theorem test_errors :
    after (executeWord 0x00 blank) (·.status) = some 0x101 ∧ after (executeWord 0x110 blank) (·.status) = some 0x201 ∧
    after (executeWord 0x41 { blank with status := 0x101 }) (·.status) = some 0 := by decide

/-- V-ERR-4: NEXT with reserved bits is not performed. -/
theorem test_error_performs_nothing :
    executeWord 0xFF00000000000010 seeded = .next { seeded with status := 0x201 } := by rfl

/-- V-ACC-1, V-ACC-2: a 32-bit write, a read at offset 0x44. -/
theorem test_unsupported :
    portAccess 0 (.write 0x40 4 5) blank = .fault (.unsupportedAccess 0x40 4) ∧
    portAccess 0 (.read 0x44 8) blank = .fault (.unsupportedAccess 0x44 8) := ⟨rfl, rfl⟩

/-- V-ACC-3, V-ACC-4: writes that are ignored. -/
theorem test_ignored_writes :
    portAccess 0 (.write 0x18 8 5) seeded = .next seeded ∧ portAccess 0 (.write 0x80 8 5) seeded = .next seeded :=
  ⟨rfl, rfl⟩

/-- V-INFO-3, V-ACC-3, V-ACC-5: reads of ROUNDS, of a reserved offset, of CMD. -/
theorem test_reads :
    readRegister testFamilyT1 seeded (registerAt 0x10) = 0xa ∧ readRegister testFamilyT1 seeded (registerAt 0x18) = 0 ∧
    readRegister testFamilyT1 seeded (registerAt 0x00) = 0 := by decide

/-- P4's first lines: the host sees the error code. -/
theorem test_status_read :
    after (runAccesses 3 [.write 0x00 8 0x00, .read 0x08 8] blank) (·.responses) = some [⟨3, 0x08, 0x101⟩] := by decide

/-! ### Text and assembly -/

/-- V-TEXT-1, V-TEXT-2. -/
theorem test_encode :
    encodeText #v[10, 11, 1, 2, 17] = "10 11 1 2 17".toList ∧
    encodeText #v[0, 1, 18446744073709551615, 42, 7] = "0 1 18446744073709551615 42 7".toList := by decide

/-- V-TEXT-3 to V-TEXT-5, V-TEXT-13. -/
theorem test_parse :
    parseText "10 11 1 2 17".toList = .ok #v[10, 11, 1, 2, 17] ∧
    parseText "  10\t11\n1 2 17  \n".toList = .ok #v[10, 11, 1, 2, 17] ∧
    parseText "007 0 0 0 0".toList = .ok #v[7, 0, 0, 0, 0] ∧
    parseText "18446744073709551615 0 0 0 18446744073709551615".toList =
      .ok #v[0xffffffffffffffff, 0, 0, 0, 0xffffffffffffffff] := by decide

/-- V-TEXT-6 to V-TEXT-12. -/
theorem test_parse_fails :
    parseText "1 2 3 4".toList = .error .malformed ∧ parseText "1 2 3 4 5 6".toList = .error .malformed ∧
    parseText "1 2 3 4 5x".toList = .error .malformed ∧ parseText "+1 2 3 4 5".toList = .error .malformed ∧
    parseText "-1 2 3 4 5".toList = .error .malformed ∧ parseText "1a 2 3 4 5".toList = .error .malformed ∧
    parseText "1,2,3,4,5".toList = .error .malformed ∧
    parseText "18446744073709551616 0 0 0 0".toList = .error .outOfRange ∧
    parseText [] = .error .malformed := by decide

/-- R80's example, and R78: case, comments, hexadecimal literals. -/
theorem test_assemble :
    assemble "SEED 1, 2".toList = .ok [.write 0x40 8 1, .write 0x48 8 2, .write 0x00 8 1] ∧
    assemble "; a comment\nwr Arg1, 0xfF ; other\n next\nrd RES4\ndraw".toList =
      .ok [.write 0x48 8 0xFF, .write 0x00 8 0x10, .read 0xA0 8, .write 0x00 8 0x10, .read 0x80 8] := by decide +kernel

/-- R78, R79: what an assembler rejects. -/
theorem test_assemble_rejects :
    assemble "SEED 1".toList = .error .wrongOperandCount ∧
    assemble "SEED_ENT 0,0,0,0,0,0,0,4294967296".toList = .error .entropyOutOfRange ∧
    assemble "DISCARD 18446744073709551616".toList = .error .literalOutOfRange ∧
    assemble "JUMP".toList = .error .unknownMnemonic := by decide +kernel

/-! ### Reset and step -/

/-- One step from reset runs the placed command word: MAXVAL. -/
theorem test_step_runs_placed_word :
    after (step (State.reset.withFetchWord 64 0x41)) (fun t => (t.res[0], t.pending)) = some (0xffffffffffffffff, []) := by
  decide

/-- R241, V-SEED-4: stale operands stand in ARG. -/
theorem test_arg_kept_across_commands :
    after (runAccesses 0 [argWrite 4 5, commandAccess .save, argWrite 0 0xA, commandAccess .load] blank) (·.arg) =
      some #v[0xA, 0, 0, 0, 5, 0, 0, 0] := by decide

/-- P1's first lines on a placed engine of T1, the engine of T0 before it untouched, and then a reset of the first. -/
theorem test_platform :
    let ps := startPlatform 0 [(0x1000, testFamilyT0), (0x1100, testFamilyT1)]
    let es : List PlatformEvent :=
      [.access 0 (.write 0x1140 8 1), .access 0 (.write 0x1148 8 2), .access 0 (.write 0x1100 8 1),
       .access 0 (.write 0x1100 8 0x10), .access 0 (.read 0x1180 8), .access 0 (.read 0x1010 8), .reset 0x1000]
    (match runPlatform es ps with
      | .next [p, q] => some (p.engine.state.key, p.engine.state.responses, q.engine.state.responses, p.engine.state.freeNext)
      | _ => none) =
      some (#v[0, 0, 0, 0], [⟨0, 0x10, 0xa⟩], [⟨0, 0x80, 0xd2317e1192fb8730⟩], 48) := by decide +kernel

/-- V-EQ-4 on engines of T1: A after `SEED 1, 2; NEXT`, B after `LOAD 10, 11, 1, 2, 1`. -/
theorem test_equal_engines :
    let a : Engine testFamilyT1 := ⟨seeded.draw testFamilyT1⟩
    let b : Engine testFamilyT1 := ⟨{ seeded with ctr := 1 }⟩
    a.equal b = true ∧ (a.state.draw testFamilyT1).res[0] = 0x74175dddca3549ff ∧
    (b.state.draw testFamilyT1).res[0] = 0x74175dddca3549ff := by decide +kernel

/-- P1's last line: the text of a T1 engine, and the engine of T1 that it restores. -/
theorem test_engine_serialize :
    let e : Engine testFamilyT1 := ⟨{ seeded with ctr := 17 }⟩
    (e.serialize 0).map (·.2) = some ⟨"10 11 1 2 17".toList⟩ ∧
    (match (⟨blank⟩ : Engine testFamilyT1).deserialize 0 ⟨"10 11 1 2 17".toList⟩ with
      | .ok (.next d) => e.equal d
      | _ => false) = true := by decide +kernel

/-! ### Witnesses: a concrete input that meets the hypotheses of each statement, at the boundaries of each clause -/

theorem witness_RejectedWordsAreExactlyTheIllegalOnes :
    (0x8000000000000010 : Word) >>> 8 ≠ 0 ∧ (0x100 : Word) >>> 8 ≠ 0 ∧ (0xFF : Word).toNat < 256 ∧
    (0xFF : Word).toNat ∉ [0x01, 0x02, 0x03, 0x10, 0x11, 0x20, 0x30, 0x31, 0x40, 0x41] ∧
    (0x00 : Word).toNat ∉ [0x01, 0x02, 0x03, 0x10, 0x11, 0x20, 0x30, 0x31, 0x40, 0x41] := by decide

theorem witness_SeedDefWritesTheDefaultKey :
    let s := withArgs #v[Config.family.defSeed, Config.family.defStream, 0, 0, 0, 0, 0, 0]
    s.arg[0] = Config.family.defSeed ∧ s.arg[1] = Config.family.defStream := ⟨rfl, rfl⟩

/-- Operands that agree where SEED and SEED_ENT read them and differ elsewhere; and for SEED_DEF none that need agree. -/
theorem witness_SeedingForgetsTheEngineState :
    let s := withArgs #v[1, 2, 3, 4, 5, 6, 7, 8]
    let t := { seeded with arg := #v[1, 2, 0, 0, 0, 0, 0, 0] }
    let u := { seeded with arg := #v[0xFFFFFFFF00000001, 2, 3, 4, 5, 6, 7, 0x800000008] }
    (s.arg[0] = t.arg[0] ∧ s.arg[1] = t.arg[1] ∧ s.arg ≠ t.arg) ∧
    ((∀ j : Fin 8, s.arg[j].extractLsb' 0 32 = u.arg[j].extractLsb' 0 32) ∧ s.arg ≠ u.arg) ∧
    Instr.seedDef ∈ [Instr.seed, Instr.seedDef, Instr.seedEnt] ∧ Instr.seedDef ≠ .seed ∧ Instr.seedDef ≠ .seedEnt := by
  decide

theorem witness_DefaultStreamIsFixed :
    (∃ u, u = State.reset) ∧ (∃ u, portEvent .reset blank = .next u) ∧ ∃ u, exec .seedDef blank = .next u :=
  ⟨⟨_, rfl⟩, ⟨_, rfl⟩, ⟨_, rfl⟩⟩

theorem witness_RotateRightMovesBits :
    (∃ n i : Nat, 1 ≤ n ∧ n ≤ 63 ∧ i < 64 ∧ n = 1 ∧ i = 63) ∧ ∃ n i : Nat, 1 ≤ n ∧ n ≤ 63 ∧ i < 64 ∧ n = 63 ∧ i = 0 :=
  ⟨⟨1, 63, by decide⟩, ⟨63, 0, by decide⟩⟩

theorem witness_QuarterRoundMixesFourWords :
    ([0, 4, 8, 12] : List (Fin 16)).Nodup ∧ (15 : Fin 16) ∉ ([0, 4, 8, 12] : List (Fin 16)) := by decide

theorem witness_DisjointQuarterRoundsCommute :
    ([0, 4, 8, 12, 3, 7, 11, 15] : List (Fin 16)).Nodup ∧
    List.Perm [⟨3, 7, 11, 15⟩, ⟨0, 4, 8, 12⟩, ⟨2, 6, 10, 14⟩, ⟨1, 5, 9, 13⟩]
      ([⟨0, 4, 8, 12⟩, ⟨1, 5, 9, 13⟩, ⟨2, 6, 10, 14⟩, ⟨3, 7, 11, 15⟩] : List Quadruple) ∧
    List.Perm [⟨3, 4, 9, 14⟩, ⟨1, 6, 11, 12⟩, ⟨2, 7, 8, 13⟩, ⟨0, 5, 10, 15⟩]
      ([⟨0, 5, 10, 15⟩, ⟨1, 6, 11, 12⟩, ⟨2, 7, 8, 13⟩, ⟨3, 4, 9, 14⟩] : List Quadruple) := by decide

theorem witness_BlockOfNoRoundsIsTwiceTheInput : Family.rounds { testFamilyT1 with rounds := 0 } = 0 := rfl

/-- A miss by the sentinel at the top of the counter, a miss by a stale index, and a hit. -/
theorem witness_NextDrawsTheCachedWord :
    (let s := blank.setCtr 0xFFFFFFFFFFFFFFFF; s.cidx ≠ s.ctr >>> 4) ∧
    (let s := (cached 1).setCtr 15; s.cidx ≠ s.ctr >>> 4) ∧
    (let s := (cached 1).setCtr 31; s.cidx = s.ctr >>> 4) ∧
    (let s := (cached 0x0FFFFFFFFFFFFFFF).setCtr 0xFFFFFFFFFFFFFFFF; s.cidx = s.ctr >>> 4 ∧ s.ctr.toNat % 16 = 15) ∧
    blank.cidx = 0xFFFFFFFFFFFFFFFF := by
  refine ⟨?_, ?_, ?_, ?_, ?_⟩ <;> decide

/-- Valid caches: none, and one that is in use. -/
theorem witness_NextReturnsTheStreamWord :
    CacheValid Config.family blank ∧ CacheValid Config.family (cached 0) ∧ (cached 0).cidx ≠ sentinel :=
  ⟨fun h => absurd rfl h, fun _ => rfl, by decide⟩

theorem witness_CounterWrapsAfterTheLastWord :
    let s := (cached 0x0FFFFFFFFFFFFFFF).setCtr 0xFFFFFFFFFFFFFFFF
    CacheValid Config.family s ∧ s.ctr = 0xFFFFFFFFFFFFFFFF := ⟨fun _ => rfl, rfl⟩

theorem witness_SixteenDrawsPermuteAtMostOnce :
    (let s := blank.setCtr 0xFFFFFFFFFFFFFFF0; s.ctr.toNat % 16 = 0 ∧ s.cidx ≠ s.ctr >>> 4) ∧
    (let s := cached 0; s.ctr.toNat % 16 = 0 ∧ s.cidx = s.ctr >>> 4) := by
  refine ⟨?_, ?_⟩ <;> decide

theorem witness_DiscardThenNextIsThatManyNexts :
    let s := { cached 0 with arg := #v[0xFFFFFFFFFFFFFFFF, 0, 0, 0, 0, 0, 0, 0] }
    CacheValid Config.family s ∧ s.arg[0].toNat + 1 = 2 ^ 64 := ⟨fun _ => rfl, by decide⟩

theorem witness_StreamLawAfterSeeding :
    (Instr.load ∈ [Instr.seed, Instr.seedDef, Instr.seedEnt, Instr.load] ∧ ∃ u, exec .load seeded = .next u) ∧
    (Instr.save ∈ [Instr.equals, Instr.save, Instr.minval, Instr.maxval] ∧ ∃ t, exec .save seeded = .next t) :=
  ⟨⟨by decide, _, rfl⟩, by decide, _, rfl⟩

theorem witness_EqualIsEqualityOfIdentity :
    (⟨blank⟩ : Engine testFamilyT1).equal ⟨cached 0⟩ = true ∧
    (⟨cached 0⟩ : Engine testFamilyT1).equal ⟨cached 1⟩ = true := by decide

/-- V-EQ-4's shape: equal generators, one with its block cached and one without. -/
theorem witness_EqualGeneratorsGiveEqualOutput :
    CacheValid Config.family (cached 0) ∧ CacheValid Config.family blank ∧
    equalIdentity (cached 0).identity blank.identity = true ∧ (cached 0).cidx ≠ blank.cidx ∧
    (let d : Engine testFamilyT1 := ⟨{ seeded with cidx := 0, cache := block testFamilyT1 seeded.key 0 }⟩
     let e : Engine testFamilyT1 := ⟨seeded⟩
     CacheValid testFamilyT1 d.state ∧ CacheValid testFamilyT1 e.state ∧ d.equal e = true) :=
  ⟨fun _ => rfl, fun h => absurd rfl h, by decide, by decide, fun _ => rfl, fun h => absurd rfl h, by decide⟩

theorem witness_SavedStateContinuesOnAnotherEngine :
    let r := withArgs #v[0, 0, 0, 0, 0, 9, 9, 9]
    CacheValid Config.family (cached 0) ∧
    (∃ u, exec .save (cached 0) = .next u ∧ ∀ i : Fin 5, r.arg[i.val] = u.res[i]) ∧
    CacheValid testFamilyT1 (⟨seeded⟩ : Engine testFamilyT1).state :=
  ⟨fun _ => rfl, ⟨_, rfl, by decide⟩, fun h => absurd rfl h⟩

theorem witness_DeserializeLoadsOnlyParsedText :
    (∃ w, parseText "1 2 3 4 5".toList = .ok w) ∧ (∃ e, parseText "1 2 3 4".toList = .error e) ∧
    ∃ e, parseText "18446744073709551616 0 0 0 0".toList = .error e :=
  ⟨⟨#v[1, 2, 3, 4, 5], by decide⟩, ⟨.malformed, by decide⟩, ⟨.outOfRange, by decide⟩⟩

/-- Whitespace, the digits of 2^64 - 1 and of 2^64, and a rest that does not start with a digit. -/
theorem witness_ParserReadsOneField :
    (∀ c ∈ "\t \n".toList, c.toNat ∈ [0x20, 0x09, 0x0A, 0x0B, 0x0C, 0x0D]) ∧
    (∀ c ∈ "18446744073709551615".toList, '0' ≤ c ∧ c ≤ '9') ∧
    decimalValue "18446744073709551615".toList ≤ 2 ^ 64 - 1 ∧
    (∀ c ∈ "18446744073709551616".toList, '0' ≤ c ∧ c ≤ '9') ∧
    ¬decimalValue "18446744073709551616".toList ≤ 2 ^ 64 - 1 ∧
    (∀ c ∈ "x1".toList.head?, ¬('0' ≤ c ∧ c ≤ '9')) ∧
    (∀ c ∈ "-1".toList.head?, ¬('0' ≤ c ∧ c ≤ '9') ∧ c.toNat ∉ [0x20, 0x09, 0x0A, 0x0B, 0x0C, 0x0D]) := by
  have digits : ∀ l : Text, l.all (fun c => decide ('0' ≤ c ∧ c ≤ '9')) = true → ∀ c ∈ l, '0' ≤ c ∧ c ≤ '9' :=
    fun l h c hc => of_decide_eq_true (List.all_eq_true.mp h c hc)
  exact ⟨by simp, digits _ (by decide), by decide, digits _ (by decide), by decide, by simp, by simp⟩

theorem witness_ParserRejectsTrailingText :
    (∀ c ∈ " \n".toList, c.toNat ∈ [0x20, 0x09, 0x0A, 0x0B, 0x0C, 0x0D]) ∧ " \n".toList ≠ [] ∧
    (∀ c ∈ "6".toList.head?, c.toNat ∉ [0x20, 0x09, 0x0A, 0x0B, 0x0C, 0x0D]) ∧ "6".toList ≠ [] ∧
    (∀ c ∈ "x".toList.head?, ¬('0' ≤ c ∧ c ≤ '9')) ∧
    (∀ c ∈ "x".toList.head?, c.toNat ∉ [0x20, 0x09, 0x0A, 0x0B, 0x0C, 0x0D]) ∧ "x".toList ≠ [] := by
  refine ⟨?_, ?_, ?_, ?_, ?_, ?_, ?_⟩ <;> simp

theorem witness_CommandsWriteOnlyTheirRegisters :
    Instr.minval ∉ [Instr.seed, Instr.seedDef, Instr.seedEnt, Instr.load, Instr.next, Instr.discard] ∧
    Instr.discard ∉ [Instr.next, Instr.equals, Instr.save, Instr.minval, Instr.maxval] ∧
    Instr.discard ∉ [Instr.seed, Instr.seedDef, Instr.seedEnt, Instr.load, Instr.next] ∧
    Instr.equals ≠ Instr.save ∧ (4 : Fin 5) ≠ 0 := by decide

/-- A step that changes the key: LOAD of other key words. -/
theorem witness_KeyChangesOnlyBySeedingLoadOrReset :
    let s := { withArgs #v[1, 2, 3, 4, 5, 0, 0, 0] with pending := [commandWrite 1 0x31] }
    ∃ t, step s = .next t ∧ t.key ≠ s.key := ⟨_, rfl, by decide⟩

theorem witness_ErrorsDoNotOutliveTheNextCommandWord :
    decode 0x41 = .ok .maxval ∧ decode 0x110 = .error .reservedBits := by decide

theorem witness_ExecuteDispatchesOnTheCommandWord : decode 0x10 = .ok .next := by decide

theorem witness_CommandErrorWritesOnlyStatus :
    (0xFF00000000000010 : Word) >>> 8 ≠ 0 ∧ (0x12 : Word) >>> 8 = 0 ∧
    (0x12 : Word).toNat ∉ [0x01, 0x02, 0x03, 0x10, 0x11, 0x20, 0x30, 0x31, 0x40, 0x41] := by decide

/-- The first and last reserved offsets of both ranges: 0x18, 0x38, 0xA8, 0xF8. -/
theorem witness_ReadsReturnTheRegisters :
    ∀ k ∈ [3, 7, 21, 31], ((3 ≤ k ∧ k ≤ 7) ∨ (21 ≤ k ∧ k ≤ 31)) ∧ 8 * k ∈ [0x18, 0x38, 0xA8, 0xF8] := by decide

theorem witness_ReadsDeliverTheirValueAndNothingElse :
    ∀ off ∈ [0x00, 0xF8], off % 8 = 0 ∧ off ≤ 0xF8 := by decide

/-- The neighbours of CMD and ARG, and the last offset. -/
theorem witness_WritesReachCmdAndArgOnly :
    ∀ off ∈ [0x08, 0x38, 0x80, 0xF8], off % 8 = 0 ∧ off ≤ 0xF8 ∧ off ≠ 0x00 ∧ ¬(0x40 ≤ off ∧ off ≤ 0x78) := by decide

/-- A 4-byte access, a misaligned one, one beyond the window. -/
theorem witness_UnsupportedAccessesFault :
    ∀ p ∈ [(0x40, 4), (0x44, 8), (0x100, 8)], p.2 ≠ 8 ∨ p.1 % 8 ≠ 0 ∨ 0xF8 < p.1 := by decide

/-- A write of ARG7, then another register, a command and a read, run to their end; so do they after a reset. -/
theorem witness_ArgHoldsTheLastValueWritten :
    let es : List PortEvent := [.access 1 (.write 0x70 8 5), commandWrite 0 0x31, .access 2 (.read 0x78 8)]
    (∀ e ∈ es, e ≠ .reset ∧ ∀ (h : Nat) (v : Word), e ≠ .access h (.write (0x40 + 8 * (7 : Fin 8)) 8 v)) ∧
    (∃ t, runEvents (.access 3 (.write (0x40 + 8 * (7 : Fin 8)) 8 9) :: es) blank = .next t) ∧
    ∃ t, runEvents (.reset :: es) blank = .next t := by
  refine ⟨?_, ⟨_, rfl⟩, ⟨_, rfl⟩⟩
  intro e he
  simp only [List.mem_cons, List.not_mem_nil, or_false] at he
  rcases he with rfl | rfl | rfl <;> simp [commandWrite, cmdOffset]

theorem witness_HostNumbersDoNotReachTheEngine :
    (∃ t, runEvents [commandWrite 1 0x10, .access 2 (.read 0x80 8), .reset] blank = .next t) ∧
    ∃ e, runEvents [commandWrite 1 0x10, .access 2 (.read 0x44 8), .reset] blank = .fault e := ⟨⟨_, rfl⟩, ⟨_, rfl⟩⟩

theorem witness_FirstDrawAfterReset :
    (∃ u, u = State.reset) ∧ (∃ u, portEvent .reset seeded = .next u) ∧ ∃ t, exec .seedDef seeded = .next t :=
  ⟨⟨_, rfl⟩, ⟨_, rfl⟩, ⟨_, rfl⟩⟩

theorem witness_StepRunsTheDecodedCommand :
    ({ blank with pending := [.access 1 (.write 0x00 8 0x11), .reset] } : State).pending =
      .access 1 (.write 0x00 8 0x11) :: [.reset] ∧
    decode 0x11 = .ok .discard ∧ decodeTableWord 64 0x41 = some .maxval := by decide

theorem witness_StepPerformsTheFirstPendingEvent :
    ({ blank with pending := [.reset] } : State).pending = .reset :: [] ∧ blank.pending = [] := by decide

/-- A step from a state with a valid cache in use: a DISCARD, which keeps it. -/
theorem witness_StepKeepsTheCacheInvariant :
    let s := { cached 0 with pending := [commandWrite 0 0x11] }
    CacheValid Config.family s ∧ s.cidx ≠ sentinel ∧ ∃ t, step s = .next t := ⟨fun _ => rfl, by decide, _, rfl⟩

theorem witness_StepKeepsCidxAndStatusLegal :
    let s := { cached 0x0FFFFFFFFFFFFFFF with status := 0x201, pending := [commandWrite 0 0x12] }
    CidxLegal s ∧ StatusLegal s ∧ ∃ t, step s = .next t := ⟨.inr (by decide), .inr (.inr rfl), _, rfl⟩

/-- Two states with different caches that a host cannot tell apart, a command pending, and a run of them; and a run that
faults. -/
theorem witness_CacheIsInvisibleToHosts :
    let s := { cached 0 with pending := [commandWrite 0 0x41] }
    let t := { blank with pending := [commandWrite 0 0x41], permutes := [3] }
    CacheValid Config.family s ∧ CacheValid Config.family t ∧ SameVisible s t ∧ s.cidx ≠ t.cidx ∧
    (∃ s', Sys2Proof.core.run 1 s = .next s') ∧
    ∃ f, Sys2Proof.core.run 1 { s with pending := [.access 0 (.read 0x44 8)] } = .fault f :=
  ⟨fun _ => rfl, fun h => absurd rfl h, ⟨rfl, rfl, rfl, rfl, rfl, rfl, rfl⟩, by decide, ⟨_, rfl⟩, ⟨_, rfl⟩⟩

theorem witness_SupportedEventsNeverStopTheEngine :
    PendingSupported { blank with pending := [commandWrite 0 0x110, .access 1 (.read 0xF8 8), .reset] } := by
  intro e he
  simp only [List.mem_cons, List.not_mem_nil, or_false] at he
  rcases he with rfl | rfl | rfl <;> decide

theorem witness_PseudoInstructionsExpandAsListed :
    (Instr.seed, [1].length) ∉ [(Instr.seed, 2), (.seedEnt, 8), (.discard, 1), (.equals, 5), (.load, 5)] ∧
    (Instr.save, ([] : List Nat).length) ∉ [(Instr.seed, 2), (.seedEnt, 8), (.discard, 1), (.equals, 5), (.load, 5)] ∧
    ∃ n ∈ [2 ^ 32, 0, 0, 0, 0, 0, 0, 0], 2 ^ 32 ≤ n := by decide

/-- Two engines of different families in adjoining windows: the last byte of the first window, the first of the second, a
misaligned access, and an address in neither. -/
theorem witness_PlatformAccessLeavesOtherEngines :
    let ps : Platform := [⟨0x1000, testFamilyT0, ⟨blank⟩⟩, ⟨0x1100, testFamilyT1, ⟨seeded⟩⟩]
    let a : Access := .write 0x1140 8 5
    (∃ qs, platformAccess 0 a ps = .next qs) ∧ ps[1]? = some ⟨0x1100, testFamilyT1, ⟨seeded⟩⟩ ∧
    windowOffset 0x1000 a.place = none ∧ windowOffset 0x1100 a.place = some 0x40 ∧
    (∃ t, (⟨seeded⟩ : Engine testFamilyT1).access 0 (a.relocate 0x40) = .next t) ∧
    windowOffset 0x1000 0x10FF = some 0xFF ∧ windowOffset 0x1100 0x10FF = none ∧ windowOffset 0x1100 0x1100 = some 0 ∧
    (∃ f, (⟨blank⟩ : Engine testFamilyT0).access 0 (Access.relocate (.read 0x1044 8) 0x44) = .fault f) ∧
    ∀ p ∈ ps, windowOffset p.base (Access.read 0x1200 8).place = none := by
  refine ⟨⟨_, rfl⟩, rfl, by decide, by decide, ⟨_, rfl⟩, by decide, by decide, by decide, ⟨_, rfl⟩, ?_⟩
  intro p hp
  simp only [List.mem_cons, List.not_mem_nil, or_false] at hp
  rcases hp with rfl | rfl <;> decide

theorem witness_PlacedEnginesResetAndRunByTheirOwnFamily :
    let ps := startPlatform 0 [(0x1000, testFamilyT0), (0x1100, testFamilyT1)]
    ([(0x1000, testFamilyT0), (0x1100, testFamilyT1)] : List (Nat × Family))[1]? = some (0x1100, testFamilyT1) ∧
    (∃ p, ps[1]? = some p ∧ p.base = 0x1100 ∧ ∀ (j : Nat) (r : PlacedEngine), j < 1 → ps[j]? = some r → r.base ≠ 0x1100) ∧
    CacheValid testFamilyT1 seeded ∧ seeded.cidx = sentinel ∧
    CacheValid testFamilyT1 { seeded with cidx := 0, cache := block testFamilyT1 seeded.key 0 } ∧
    Access.write 0x00 8 0x11 ∉ [.write 0x00 8 0x01, .write 0x00 8 0x02, .write 0x00 8 0x10, .read 0x10 8] := by
  refine ⟨rfl, ⟨_, rfl, rfl, ?_⟩, fun h => absurd rfl h, rfl, fun _ => rfl, by decide⟩
  intro j r hj hr
  obtain rfl : j = 0 := by omega
  cases hr
  decide

end Sys2Proof.Tests
end

section
/-! The state between commands: the cache invariant (10_state.md R26), the output law (R28), the ARG registers (R34) and
the reset values (R43). -/

namespace Sys2Proof.Machine

/-! ### The cache invariant -/

/-- An invalidated cache claims nothing. -/
theorem CacheValid.of_cidx_eq_sentinel {F : Family} {s : State} (h : s.cidx = sentinel) : CacheValid F s :=
  fun hne => absurd h hne

/-! The invariant speaks of K, CACHE and CIDX only, so a write of anything else keeps it. -/

section OtherRegisters

variable (F : Family) (s : State)

@[simp] theorem cacheValid_setCtr (v : Word) : CacheValid F (s.setCtr v) ↔ CacheValid F s := .rfl
@[simp] theorem cacheValid_setArg (i : Fin 8) (v : Word) : CacheValid F (s.setArg i v) ↔ CacheValid F s := .rfl
@[simp] theorem cacheValid_setRes (i : Fin 5) (v : Word) : CacheValid F (s.setRes i v) ↔ CacheValid F s := .rfl
@[simp] theorem cacheValid_respond (r : Response) : CacheValid F (s.respond r) ↔ CacheValid F s := .rfl
@[simp] theorem cacheValid_setPending (es : List PortEvent) : CacheValid F (s.setPending es) ↔ CacheValid F s := .rfl
@[simp] theorem cacheValid_accept : CacheValid F s.accept ↔ CacheValid F s := .rfl
@[simp] theorem cacheValid_commandError (e : CommandError) : CacheValid F (s.commandError e) ↔ CacheValid F s := .rfl

end OtherRegisters

/-- A draw leaves the block of the counter it started from, on a hit and on a miss. -/
theorem CacheValid.draw {F : Family} {s : State} (hs : CacheValid F s) : CacheValid F (s.draw F) := fun _ => by
  rw [State.draw_cache, State.draw_key, State.draw_cidx, State.refreshCache_cache F s hs]

/-- Every command keeps the cache invariant: those that write K invalidate the cache, NEXT leaves a block of the key, and
the others leave K, CACHE and CIDX. -/
theorem exec_cacheValid {i : Instr} {s t : State} (hs : CacheValid Config.family s) (h : exec i s = .next t) :
    CacheValid Config.family t := by
  cases i <;> cases h
  case seed | seedDef | seedEnt | load => exact .of_cidx_eq_sentinel rfl
  case next => simpa using hs.draw
  case discard => simpa [State.skip] using hs
  case save => simpa [State.saveIdentity] using hs
  case equals | minval | maxval => simpa using hs

/-- Every event at the port keeps the cache invariant. -/
theorem portEvent_cacheValid {e : PortEvent} {s t : State} (hs : CacheValid Config.family s)
    (h : portEvent e s = .next t) : CacheValid Config.family t := by
  rcases portEvent_cases h with ⟨-, rfl⟩ | ⟨_, _, -, -, rfl⟩ | ⟨_, _, -, hexec⟩ | ⟨_, _, _, -, rfl⟩ | ⟨_, _, _, -, rfl⟩ |
    ⟨_, _, _, -, rfl⟩
  · exact .of_cidx_eq_sentinel (State.applyReset_cidx s)
  · exact (cacheValid_respond _ s _).mpr hs
  · exact exec_cacheValid hs hexec
  · exact (cacheValid_commandError _ s _).mpr hs
  · exact (cacheValid_setArg _ s _ _).mpr hs
  · exact hs

/-- Settles O53: a step is idle, or it is one event at the port. -/
theorem stepKeepsTheCacheInvariant : Obligations.StepKeepsTheCacheInvariant := by
  intro s t hs h
  cases hp : s.pending with
  | nil =>
    rw [step_nil hp] at h
    cases h
    exact hs
  | cons e rest =>
    rw [step_cons hp] at h
    exact portEvent_cacheValid ((cacheValid_setPending _ s rest).mpr hs) h

/-! ### The output law -/

/-- Settles O18: whatever is cached, the refreshed cache is the counter's block, so the draw gives the stream's word. -/
theorem nextReturnsTheStreamWord : Obligations.NextReturnsTheStreamWord := by
  intro s hs
  refine ⟨_, exec_next s, ?_⟩
  rw [State.accept_res, State.draw_res_zero _ s hs]
  rfl

/-! ### The ARG registers -/

/-- A run that gives a next state begins with an event that does. -/
theorem runEvents_cons_eq_next {e : PortEvent} {es : List PortEvent} {s t : State} :
    runEvents (e :: es) s = .next t ↔ ∃ u, portEvent e s = .next u ∧ runEvents es u = .next t := by
  cases hp : portEvent e s <;> simp [runEvents, hp]

/-- What every event of a list keeps, a run of the list keeps. -/
theorem runEvents_invariant {P : State → Prop} {es : List PortEvent}
    (hP : ∀ e ∈ es, ∀ {s t : State}, P s → portEvent e s = .next t → P t) {s t : State} (hs : P s)
    (h : runEvents es s = .next t) : P t := by
  induction es generalizing s with
  | nil => cases h; exact hs
  | cons e es ih =>
    obtain ⟨u, he, hes⟩ := runEvents_cons_eq_next.mp h
    have hu : P u := hP e List.mem_cons_self hs he
    exact ih (fun e he => hP e (List.mem_cons_of_mem _ he)) hu hes

/-- Only a reset and a write of `ARG[i]` change `ARG[i]` (10_state.md R34). -/
theorem portEvent_arg_of_ne {e : PortEvent} {s t : State} {i : Fin 8} (hreset : e ≠ .reset)
    (hwrite : ∀ (g : Nat) (v : Word), e ≠ .access g (argWrite i v)) (h : portEvent e s = .next t) :
    t.arg[i] = s.arg[i] := by
  rcases portEvent_cases h with ⟨he, -⟩ | ⟨_, _, -, -, rfl⟩ | ⟨_, _, -, hexec⟩ | ⟨_, _, _, -, rfl⟩ | ⟨g, j, v, he, rfl⟩ |
    ⟨_, _, _, -, rfl⟩
  · exact absurd he hreset
  · rfl
  · rw [exec_arg hexec]
  · rfl
  · have hji : j ≠ i := by
      rintro rfl
      exact hwrite g v he
    simpa using Vector.getElem_set_ne j.isLt i.isLt (Fin.val_ne_of_ne hji)
  · rfl

/-- `ARG[i]` keeps its value through every run without a reset or a write of `ARG[i]` (R34). -/
theorem runEvents_arg_of_ne {es : List PortEvent} {s t : State} {i : Fin 8}
    (hes : ∀ e ∈ es, e ≠ .reset ∧ ∀ (g : Nat) (v : Word), e ≠ .access g (argWrite i v))
    (h : runEvents es s = .next t) : t.arg[i] = s.arg[i] := by
  refine runEvents_invariant (P := fun u => u.arg[i] = s.arg[i]) (fun e he u u' hu hstep => ?_) rfl h
  obtain ⟨hreset, hwrite⟩ := hes e he
  exact (portEvent_arg_of_ne hreset hwrite hstep).trans hu

/-- Settles O46: the first event sets `ARG[i]`, and the events after it keep it. -/
theorem argHoldsTheLastValueWritten : Obligations.ArgHoldsTheLastValueWritten := by
  intro i es hes s t
  have hread : readRegister Config.family t (registerAt (argOffset i)) = t.arg[i] := by
    rw [registerAt_arg, readRegister]
  refine ⟨fun g v h => hread.trans ?_, fun h => hread.trans ?_⟩
  · have hrun : runEvents es (s.setArg i v) = .next t :=
      (runEvents_cons (e := .access g (argWrite i v)) (portAccess_argWrite g i v s) es).symm.trans h
    rw [runEvents_arg_of_ne hes hrun]
    simp
  · have hrun : runEvents es s.applyReset = .next t := h
    rw [runEvents_arg_of_ne hes hrun]
    simp

/-! ### The reset values -/

/-- Settles O48: the reset state of this build, word by word. -/
theorem resetValues : Obligations.ResetValues := by
  obtain ⟨hkey, hctr, hcidx, harg, hres, hstatus, hpermutes⟩ := resetFrom_hasResetValues Config.family 0
  refine ⟨?_, ?_, ?_, ?_, hctr, hcidx, harg, hres, hstatus, rfl, hpermutes⟩ <;> rw [State.reset, hkey] <;> rfl

end Sys2Proof.Machine
end

section
/-! One access at the port: the supported and the unsupported ones (20_memory.md R51), what a read returns (R52) and what
a write reaches (R53). -/

namespace Sys2Proof.Machine

/-! ### Supported and unsupported accesses -/

/-- A supported read completes: it hands out the register's value. -/
theorem portAccess_read_of_supported {off bytes : Nat} (hs : supported off bytes = true) (h : Nat) (s : State) :
    portAccess h (.read off bytes) s =
      .next (s.respond ⟨h, off, readRegister Config.family s (registerAt off)⟩) := by
  rw [portAccess, portAccessWith, if_pos hs]

/-- A supported write is the write of the register at its offset. -/
theorem portAccess_write_of_supported {off bytes : Nat} (hs : supported off bytes = true) (h : Nat) (v : Word)
    (s : State) : portAccess h (.write off bytes v) s = writeRegisterWith exec (registerAt off) v s := by
  rw [portAccess, portAccessWith, if_pos hs]

/-- An unsupported access, a read or a write, has one of R51's three defects. -/
theorem not_supported_iff (off bytes : Nat) :
    ¬supported off bytes = true ↔ bytes ≠ 8 ∨ off % 8 ≠ 0 ∨ 0xF8 < off := by
  rw [supported_iff]
  omega

/-- Settles O45: an access with one of the three defects is not supported, and the port faults it in either direction. -/
theorem unsupportedAccessesFault : Obligations.UnsupportedAccessesFault := by
  intro h off bytes v s hdefect
  have hs : ¬supported off bytes = true := (not_supported_iff off bytes).mpr hdefect
  constructor <;> rw [portAccess, portAccessWith, if_neg hs]

/-! ### Reads -/

/-- The reserved offsets are those between ROUNDS and ARG and those beyond RES (10_state.md R30). -/
theorem registerAt_reserved {k : Nat} (hk : (3 ≤ k ∧ k ≤ 7) ∨ (21 ≤ k ∧ k ≤ 31)) : registerAt (8 * k) = .reserved := by
  have hcmd : 8 * k ≠ 0x00 := by omega
  have hstatus : 8 * k ≠ 0x08 := by omega
  have hrounds : 8 * k ≠ 0x10 := by omega
  have harg : ¬(0x40 ≤ 8 * k ∧ 8 * k ≤ 0x78) := by omega
  have hres : ¬(0x80 ≤ 8 * k ∧ 8 * k ≤ 0xA0) := by omega
  rw [registerAt, if_neg hcmd, if_neg hstatus, if_neg hrounds, dif_neg harg, dif_neg hres]

/-- Settles O42: a supported read writes the list of values given to hosts alone, and every offset reads its register. -/
theorem readsReturnTheRegisters : Obligations.ReadsReturnTheRegisters := by
  intro s
  have hread {off : Nat} {r : Register} (hr : registerAt off = r) :
      readRegister Config.family s (registerAt off) = readRegister Config.family s r := by rw [hr]
  refine ⟨fun h off h8 hle => ?_, hread registerAt_cmd, rfl, rfl, fun i => hread (registerAt_arg i),
    fun i => hread (registerAt_res i), fun k hk => hread (registerAt_reserved hk)⟩
  have hs : supported off 8 = true := (supported_iff off 8).mpr ⟨rfl, h8, hle⟩
  exact ⟨_, portAccess_read_of_supported hs h s, rfl, rfl, rfl, rfl, rfl, rfl, rfl, rfl⟩

/-! ### Writes -/

/-- A write of any register but CMD and ARG has no effect (20_memory.md R53). -/
theorem writeRegisterWith_of_ne {r : Register} (hcmd : r ≠ .cmd) (harg : ∀ i, r ≠ .arg i) (run : Commands) (v : Word)
    (s : State) : writeRegisterWith run r v s = .next s := by
  cases r with
  | cmd => exact absurd rfl hcmd
  | arg i => exact absurd rfl (harg i)
  | status | rounds | res _ | reserved => rfl

/-- Settles O44: CMD stands at offset 0 only, and ARG from 0x40 to 0x78 only. -/
theorem writesReachCmdAndArgOnly : Obligations.WritesReachCmdAndArgOnly := by
  refine fun h v s => ⟨portAccess_write_of_supported supported_cmd h v s, fun i => portAccess_argWrite h i v s,
    fun off h8 hle hzero hrange => ?_⟩
  have hs : supported off 8 = true := (supported_iff off 8).mpr ⟨rfl, h8, hle⟩
  have hcmd : registerAt off ≠ .cmd := fun hr => hzero (registerAt_eq_cmd hr)
  have harg (i : Fin 8) : registerAt off ≠ .arg i := fun hr => by
    have hoff : off = 0x40 + 8 * i := registerAt_eq_arg h8 hr
    omega
  rw [portAccess_write_of_supported hs, writeRegisterWith_of_ne hcmd harg]

end Sys2Proof.Machine
end

section
/-! Executing a command word: which words are commands (30_encoding.md R70 to R72), and what Execute does with a command
and with a rejected word (R71, R74; 60_exceptions.md R202). -/

namespace Sys2Proof

/-! ### The decoder, case by case -/

/-- The list of all commands misses none. -/
theorem Instr.mem_all (i : Instr) : i ∈ Instr.all := by
  cases i <;> decide

/-- The ten defined opcodes, as numbers, are those of the command words. -/
theorem toNat_mem_opcodes_iff (w : Word) :
    w.toNat ∈ [0x01, 0x02, 0x03, 0x10, 0x11, 0x20, 0x30, 0x31, 0x40, 0x41] ↔ ∃ i, w = encode i := by
  have hlist : [0x01, 0x02, 0x03, 0x10, 0x11, 0x20, 0x30, 0x31, 0x40, 0x41] =
      Instr.all.map fun i => (encode i).toNat := by decide
  simp [hlist, Instr.mem_all, BitVec.toNat_inj, eq_comm]

/-- A word that decodes to a command is that command's word. -/
theorem eq_encode_of_decode {w : Word} {i : Instr} (h : decode w = .ok i) : w = encode i := by
  rcases decode_cases w with ⟨-, hd⟩ | ⟨j, hw, hd⟩ | ⟨-, -, hd⟩
  · cases hd.symm.trans h
  · cases hd.symm.trans h
    exact hw
  · cases hd.symm.trans h

/-- A reserved bit rejects the word, whatever its opcode (R74(a)). -/
theorem decode_of_reservedBits {w : Word} (h : w >>> 8 ≠ 0) : decode w = .error .reservedBits := by
  rw [decode, if_pos (mt (mbz_eq_zero_iff w).mp h)]

/-- A word without reserved bits that is no command's word has an illegal opcode (R74(b)). -/
theorem decode_of_ne_encode {w : Word} (hs : w >>> 8 = 0) (hw : ∀ i, w ≠ encode i) :
    decode w = .error .illegalOpcode := by
  rcases decode_cases w with ⟨hne, -⟩ | ⟨i, hi, -⟩ | ⟨-, -, hd⟩
  · exact absurd hs hne
  · exact absurd hi (hw i)
  · exact hd

end Sys2Proof

namespace Sys2Proof.Machine

/-! ### Execute, case by case -/

/-- Every command leaves STATUS 0 (R71). -/
theorem exec_status {i : Instr} {s t : State} (h : exec i s = .next t) : t.status = 0 := by
  cases i <;> cases h <;> exact State.accept_status _

/-- A rejected word takes its command error. -/
theorem executeWord_of_decode_error {v : Word} {e : CommandError} (h : decode v = .error e) (s : State) :
    executeWord v s = .next (s.commandError e) := by
  rw [executeWord, executeWith, h]

/-- A word with a reserved bit writes its code to STATUS and nothing else (R74(a), R202). -/
theorem executeWord_of_reservedBits {v : Word} (h : v >>> 8 ≠ 0) (s : State) :
    executeWord v s = .next { s with status := 0x201 } :=
  executeWord_of_decode_error (decode_of_reservedBits h) s

/-- A word that is no command's writes the code of an illegal opcode to STATUS and nothing else (R74(b), R202). -/
theorem executeWord_of_ne_encode {v : Word} (hs : v >>> 8 = 0) (hv : ∀ i, v ≠ encode i) (s : State) :
    executeWord v s = .next { s with status := 0x101 } :=
  executeWord_of_decode_error (decode_of_ne_encode hs hv) s

/-- Settles O40: the first clause asks nothing of the opcode, and the opcodes of the second are those of no command. -/
theorem commandErrorWritesOnlyStatus : Obligations.CommandErrorWritesOnlyStatus := by
  refine fun v s => ⟨fun h => executeWord_of_reservedBits h s, fun hs hopc => ?_⟩
  have hv (i : Instr) : v ≠ encode i := fun hi => hopc ((toNat_mem_opcodes_iff v).mpr ⟨i, hi⟩)
  exact executeWord_of_ne_encode hs hv s

/-- Settles O4: the word has a reserved bit, or is one of the ten commands' words, or is none of them. -/
theorem executeDispatchesOnTheCommandWord : Obligations.ExecuteDispatchesOnTheCommandWord := by
  constructor
  · intro v i s h
    obtain ⟨t, ht⟩ := exec_next_state s i
    obtain rfl := eq_encode_of_decode h
    exact ⟨t, (executeWord_encode i s).trans ht, exec_status ht⟩
  · intro v s
    by_cases hs : v >>> 8 = 0
    · by_cases hv : ∃ i, v = encode i
      · obtain ⟨i, rfl⟩ := hv
        rw [executeWord_encode]
        cases i <;> rfl
      · have hne : ∀ i, v ≠ encode i := not_exists.mp hv
        rw [executeWord_of_ne_encode hs hne, if_neg (not_not.mpr hs)]
        have hwords : v ≠ 0x01 ∧ v ≠ 0x02 ∧ v ≠ 0x03 ∧ v ≠ 0x10 ∧ v ≠ 0x11 ∧ v ≠ 0x20 ∧ v ≠ 0x30 ∧ v ≠ 0x31 ∧
            v ≠ 0x40 ∧ v ≠ 0x41 :=
          ⟨hne .seed, hne .seedDef, hne .seedEnt, hne .next, hne .discard, hne .equals, hne .save, hne .load,
            hne .minval, hne .maxval⟩
        simp only [hwords, if_false]
    · rw [executeWord_of_reservedBits hs, if_pos hs]

end Sys2Proof.Machine
end

section
/-! Runs of draws and skips from any state with a valid cache (42_draw.md R138): one state for each run, and what it
holds. Stated for every family; the machine of `step` is an engine of `Config.family`. -/

namespace Sys2Proof.Machine

/-! ### One stream operation -/

/-- The state after host `h` performed one stream operation on an engine of family `F` (30_encoding.md R79). -/
def State.afterOp (F : Family) (h : Nat) (s : State) : StreamOp → State
  | .draw => (s.draw F).accept.respond ⟨h, resOffset 0, (s.draw F).res[0]⟩
  | .skip n => ((s.setArg 0 n).skip n).accept

/-- A stream operation runs to its end, whatever accesses follow. -/
theorem runAccessesOf_streamOp (F : Family) (h : Nat) (op : StreamOp) (as : List Access) (s : State) :
    runAccessesOf F h (op.accesses ++ as) s = runAccessesOf F h as (s.afterOp F h op) := by
  cases op with
  | draw =>
    have hnext : portAccessOf F h (commandAccess .next) s = .next (s.draw F).accept := portAccessOf_command F h .next s
    exact (runAccessesOf_cons hnext _).trans (runAccessesOf_cons (portAccessOf_resRead F h 0 _) as)
  | skip n =>
    have hdiscard : portAccessOf F h (commandAccess .discard) (s.setArg 0 n) =
        .next ((s.setArg 0 n).skip n).accept := by
      simp [execOf, execDiscard, State.operand]
    exact (runAccessesOf_cons (portAccessOf_argWrite F h 0 n s) _).trans (runAccessesOf_cons hdiscard as)

@[simp] theorem State.afterOp_key (F : Family) (h : Nat) (s : State) (op : StreamOp) :
    (s.afterOp F h op).key = s.key := by
  cases op <;> simp [State.afterOp, State.skip]

/-- The counter of the rest of a run is the counter after its first operation. -/
theorem streamCtr_cons (F : Family) (h : Nat) (s : State) (op : StreamOp) (ops : List StreamOp) :
    streamCtr s.ctr (op :: ops) = streamCtr (s.afterOp F h op).ctr ops := by
  cases op <;> simp [streamCtr, State.afterOp, State.skip]

/-- A stream operation keeps the cache invariant: a skip moves the counter only. -/
theorem CacheValid.afterOp {F : Family} {s : State} (hs : CacheValid F s) (h : Nat) (op : StreamOp) :
    CacheValid F (s.afterOp F h op) := by
  cases op with
  | draw => simpa [State.afterOp] using hs.draw
  | skip n => simpa [State.afterOp, State.skip] using hs

/-- One operation hands out the first word of a run that begins with it, if it is a draw. -/
theorem CacheValid.afterOp_values {F : Family} {s : State} (hs : CacheValid F s) (h : Nat) (op : StreamOp)
    (ops : List StreamOp) :
    (s.afterOp F h op).responses.map (·.value) ++ streamWords F s.key (s.afterOp F h op).ctr ops =
      s.responses.map (·.value) ++ streamWords F s.key s.ctr (op :: ops) := by
  cases op with
  | draw => simp [State.afterOp, streamWords, State.draw_res_zero F s hs]
  | skip n => simp [State.afterOp, State.skip, streamWords]

/-! ### A sequence of them -/

/-- The state after host `h` performed stream operations one after another. -/
def State.afterOps (F : Family) (h : Nat) : List StreamOp → State → State
  | [], s => s
  | op :: ops, s => State.afterOps F h ops (s.afterOp F h op)

/-- A run of stream operations completes from every state. -/
theorem runStreamOf_eq (F : Family) (h : Nat) (ops : List StreamOp) (s : State) :
    runStreamOf F h ops s = .next (s.afterOps F h ops) := by
  induction ops generalizing s with
  | nil => rfl
  | cons op ops ih => exact (runAccessesOf_streamOp F h op _ s).trans (ih _)

/-- On the machine of `step`: it is the engine of its family. -/
theorem runStream_eq (h : Nat) (ops : List StreamOp) (s : State) :
    runStream h ops s = .next (s.afterOps Config.family h ops) :=
  (runAccessesOf_family h _ s).symm.trans (runStreamOf_eq Config.family h ops s)

@[simp] theorem State.afterOps_key (F : Family) (h : Nat) (ops : List StreamOp) (s : State) :
    (s.afterOps F h ops).key = s.key := by
  induction ops generalizing s with
  | nil => rfl
  | cons op ops ih => exact (ih _).trans (s.afterOp_key F h op)

@[simp] theorem State.afterOps_ctr (F : Family) (h : Nat) (ops : List StreamOp) (s : State) :
    (s.afterOps F h ops).ctr = streamCtr s.ctr ops := by
  induction ops generalizing s with
  | nil => rfl
  | cons op ops ih => exact (ih _).trans (streamCtr_cons F h s op ops).symm

/-- From a valid cache, the values handed out are the stream's words at the positions the counter passes. -/
theorem CacheValid.afterOps_values {F : Family} {s : State} (hs : CacheValid F s) (h : Nat) (ops : List StreamOp) :
    (s.afterOps F h ops).responses.map (·.value) =
      s.responses.map (·.value) ++ streamWords F s.key s.ctr ops := by
  induction ops generalizing s with
  | nil => simp [State.afterOps, streamWords]
  | cons op ops ih =>
    rw [← hs.afterOp_values h op ops, ← s.afterOp_key F h op]
    exact ih (hs.afterOp h op)

/-- From a valid cache, a run's new values depend on key and counter alone (R138; 10_state.md R28). -/
theorem CacheValid.newValues_afterOps {F : Family} {s : State} (hs : CacheValid F s) (h : Nat) (ops : List StreamOp) :
    newValues s (s.afterOps F h ops) = streamWords F s.key s.ctr ops := by
  rw [newValues, List.map_drop, hs.afterOps_values, List.drop_left' (List.length_map _)]

end Sys2Proof.Machine
end

section
/-! The seeding commands (40_seeding.md R100 to R104) and the default stream (R103). -/

namespace Sys2Proof.Machine

/-! ### The default stream -/

/-- Draws alone read the stream word after word from the counter on. -/
theorem streamWords_replicate_draw (F : Family) (k : Key) (c : Word) (n : Nat) :
    streamWords F k c (List.replicate n .draw) =
      (List.range n).map fun j => streamWord F k (c + BitVec.ofNat 64 j) := by
  induction n generalizing c with
  | zero => rfl
  | succ n ih =>
    have hshift (j : Nat) : c + 1#64 + BitVec.ofNat 64 j = c + BitVec.ofNat 64 (j + 1) := by
      rw [BitVec.add_assoc, Nat.add_comm j 1, BitVec.ofNat_add]
    simp [List.replicate_succ, streamWords, ih, List.range_succ_eq_map, hshift, Function.comp_def]

theorem blockIndex_ofNat (j : Nat) : blockIndex (BitVec.ofNat 64 j) = BitVec.ofNat 64 (j % 2 ^ 64 / 16) := by
  apply BitVec.eq_of_toNat_eq
  simp only [blockIndex, BitVec.toNat_ushiftRight, BitVec.toNat_ofNat, Nat.shiftRight_eq_div_pow]
  omega

theorem blockOffset_ofNat (j : Nat) :
    blockOffset (BitVec.ofNat 64 j) = ⟨j % 16, Nat.mod_lt j (by decide)⟩ := by
  simp only [blockOffset, BitVec.toNat_ofNat, Fin.mk.injEq]
  omega

/-- Word `j` of the stream, counted without bound, is word `j mod 16` of its block (42_draw.md R130). -/
theorem streamWord_ofNat (F : Family) (k : Key) (j : Nat) :
    streamWord F k (BitVec.ofNat 64 j) =
      (block F k (BitVec.ofNat 64 (j % 2 ^ 64 / 16)))[j % 16]'(Nat.mod_lt j (by decide)) := by
  simp only [streamWord, blockIndex_ofNat, blockOffset_ofNat, Fin.getElem_fin]

/-- Reset, a reset event and SEED_DEF all end with the default key, counter 0 and an invalid cache (R102; 10_state.md
R43). -/
theorem defaultKey_of_reset_or_seedDef {s u : State}
    (hu : u = State.reset ∨ portEvent .reset s = .next u ∨ exec .seedDef s = .next u) :
    u.key = defaultKey Config.family ∧ u.ctr = 0 ∧ u.cidx = sentinel := by
  rcases hu with rfl | h | h
  · exact ⟨rfl, rfl, rfl⟩
  · cases h
    exact ⟨rfl, rfl, rfl⟩
  · cases h
    exact ⟨rfl, rfl, rfl⟩

/-- Settles O9: the run starts at word 0 of the default key's stream with an invalid cache, so its draws are the stream's
words in order. -/
theorem defaultStreamIsFixed : Obligations.DefaultStreamIsFixed := by
  intro h n s u hu
  obtain ⟨hkey, hctr, hcidx⟩ := defaultKey_of_reset_or_seedDef hu
  refine ⟨_, runStream_eq h _ u, ?_⟩
  rw [(CacheValid.of_cidx_eq_sentinel hcidx).newValues_afterOps, hkey, hctr, streamWords_replicate_draw]
  simp only [zero_add, streamWord_ofNat, defaultKey]

/-! ### What the seeding commands leave -/

/-- The whole effect of an accepted seeding: K, CTR, CIDX and STATUS (R100). -/
theorem State.seedWith_accept (s : State) (k : Key) :
    (s.seedWith k).accept = { s with key := k, ctr := 0, cidx := 0xFFFFFFFFFFFFFFFF, status := 0 } := rfl

/-- Packing puts the first half above the second. -/
theorem packWords_eq_append (hi lo : HalfWord) : packWords hi lo = hi ++ lo :=
  (packWords_eq hi lo).trans (BitVec.setWidth_append_eq_shiftLeft_setWidth_or.symm.trans (BitVec.setWidth_eq _))

/-- Settles O7: SEED_ENT seeds with the packed key, whose words are the low halves appended. -/
theorem seedEntPacksEightHalfWords : Obligations.SeedEntPacksEightHalfWords := by
  refine ⟨decode_encode .seedEnt, fun s => ?_⟩
  rw [exec_seedEnt, State.seedWith_accept]
  simp only [State.packedKey, packWords_eq_append]
  rfl

/-- A seeding command seeds with a key that only the operands it reads decide (R100). -/
theorem exec_seeding_congr {i : Instr} (hi : i ∈ [Instr.seed, Instr.seedDef, Instr.seedEnt]) {s t : State}
    (hseed : i = .seed → s.arg[0] = t.arg[0] ∧ s.arg[1] = t.arg[1])
    (hent : i = .seedEnt → ∀ j : Fin 8, s.arg[j].extractLsb' 0 32 = t.arg[j].extractLsb' 0 32) :
    ∃ k, exec i s = .next (s.seedWith k).accept ∧ exec i t = .next (t.seedWith k).accept := by
  simp only [List.mem_cons, List.not_mem_nil, or_false] at hi
  rcases hi with rfl | rfl | rfl
  · obtain ⟨h0, h1⟩ := hseed rfl
    have hkey : t.seedKey Config.family = s.seedKey Config.family := by
      simp [State.seedKey, State.operand, h0, h1]
    exact ⟨s.seedKey Config.family, exec_seed s, by rw [exec_seed, hkey]⟩
  · exact ⟨defaultKey Config.family, exec_seedDef s, exec_seedDef t⟩
  · exact ⟨s.packedKey, exec_seedEnt s, by rw [exec_seedEnt, packedKey_congr_low (hent rfl)]⟩

/-- Settles O8: the two engines are seeded with one key, and from invalid caches their words follow from key and counter
alone. -/
theorem seedingForgetsTheEngineState : Obligations.SeedingForgetsTheEngineState := by
  intro i hi s t hseed hent
  obtain ⟨k, hs, ht⟩ := exec_seeding_congr hi hseed hent
  have hvalid (u : State) : CacheValid Config.family (u.seedWith k).accept := .of_cidx_eq_sentinel rfl
  refine ⟨_, _, hs, ht, rfl, rfl, rfl, fun h g ops => ⟨_, _, runStream_eq h ops _, runStream_eq g ops _, ?_⟩⟩
  rw [(hvalid s).newValues_afterOps, (hvalid t).newValues_afterOps]
  rfl

/-- Settles O5: SEED's key words are the two constants and the two operands. -/
theorem seedWritesTheConstantsAndItsOperands : Obligations.SeedWritesTheConstantsAndItsOperands :=
  ⟨decode_encode .seed, fun s => (exec_seed s).trans (congrArg _ (s.seedWith_accept _))⟩

/-- Settles O6: SEED on the default operands seeds with the default key, which is that of reset. -/
theorem seedDefWritesTheDefaultKey : Obligations.SeedDefWritesTheDefaultKey := by
  refine ⟨decode_encode .seedDef, fun s => (exec_seedDef s).trans (congrArg _ (s.seedWith_accept _)),
    fun s h0 h1 => ?_, fun s => ⟨_, exec_seedDef s, rfl, rfl, rfl⟩⟩
  have hkey : s.seedKey Config.family = defaultKey Config.family := by
    simp [State.seedKey, State.operand, defaultKey, h0, h1]
  rw [exec_seed, exec_seedDef, hkey]

end Sys2Proof.Machine
end

section
/-! The block permutation (41_permutation.md R110 to R120): rotation bit by bit, the quarter-round word by word, the input
vector and the block function. -/

namespace Sys2Proof.Machine

/-! ### Rotation -/

/-- A bit that stays inside the word comes from the right shift. -/
theorem rotr_getLsbD_of_lt (x : Word) {n i : Nat} (h : i + n < 64) : (rotr x n).getLsbD i = x.getLsbD (i + n) := by
  have hleft : i < 64 - n := by omega
  simp [rotr, hleft, Nat.add_comm]

/-- A bit that passes the end of the word comes from the left shift. -/
theorem rotr_getLsbD_of_ge (x : Word) {n i : Nat} (hn : n ≤ 63) (hi : i < 64) (h : 64 ≤ i + n) :
    (rotr x n).getLsbD i = x.getLsbD (i + n - 64) := by
  have hright : x.getLsbD (n + i) = false := BitVec.getLsbD_of_ge x (n + i) (by omega)
  have hleft : ¬i < 64 - n := by omega
  have hindex : i - (64 - n) = i + n - 64 := by omega
  simp only [rotr, BitVec.getLsbD_or, BitVec.getLsbD_ushiftRight, BitVec.getLsbD_shiftLeft, hright, hleft, hi, hindex,
    decide_true, decide_false, Bool.false_or, Bool.true_and, Bool.not_false]

/-- Settles O10: a bit is rotated within the word or around its end. -/
theorem rotateRightMovesBits : Obligations.RotateRightMovesBits := by
  intro x n i _ hn hi
  by_cases h : i + n < 64
  · rw [rotr_getLsbD_of_lt x h, Nat.mod_eq_of_lt h]
  · have hmod : (i + n) % 64 = i + n - 64 := by omega
    rw [rotr_getLsbD_of_ge x hn hi (by omega), hmod]

/-! ### The quarter-round

Its last six steps are its first six with other rotation amounts, so what six steps do is said once. -/

/-- Six steps of R113: add and rotate into `d`, then add and rotate into `b`. -/
def halfQuarterRound (x : Block) (a b c d : Fin 16) (m n : Nat) : Block :=
  let x := rotAt (xorAt (addAt x a b) d a) d m
  rotAt (xorAt (addAt x c d) b c) b n

theorem quarterRound_eq_halves (x : Block) (a b c d : Fin 16) :
    quarterRound x a b c d = halfQuarterRound (halfQuarterRound x a b c d rot1 rot2) a b c d rot3 rot4 := rfl

/-- The four words that six steps leave on distinct positions. -/
theorem halfQuarterRound_words (x : Block) {a b c d : Fin 16} (h : [a, b, c, d].Nodup) (m n : Nat) :
    let a1 := x[a] + x[b]
    let d1 := rotr (x[d] ^^^ a1) m
    let c1 := x[c] + d1
    let b1 := rotr (x[b] ^^^ c1) n
    let y := halfQuarterRound x a b c d m n
    y[a] = a1 ∧ y[b] = b1 ∧ y[c] = c1 ∧ y[d] = d1 := by
  simp only [List.nodup_cons, List.mem_cons, List.not_mem_nil, or_false, not_or] at h
  obtain ⟨⟨hab, hac, had⟩, ⟨hbc, hbd⟩, hcd, -⟩ := h
  simp only [halfQuarterRound, addAt_self, xorAt_self, rotAt_self, addAt_ne, xorAt_ne, rotAt_ne, ne_eq, hab, hac, had,
    hbc, hbd, hcd, Ne.symm hab, Ne.symm hac, Ne.symm had, Ne.symm hbc, Ne.symm hbd, Ne.symm hcd, not_false_eq_true,
    and_self]

/-- Six steps write no position but their four. -/
theorem halfQuarterRound_of_notMem (x : Block) {a b c d e : Fin 16} (he : e ∉ [a, b, c, d]) (m n : Nat) :
    (halfQuarterRound x a b c d m n)[e] = x[e] := by
  simp only [List.mem_cons, List.not_mem_nil, or_false, not_or] at he
  obtain ⟨ha, hb, hc, hd⟩ := he
  rw [halfQuarterRound, rotAt_ne _ _ hb, xorAt_ne _ _ hb, addAt_ne _ _ hc, rotAt_ne _ _ hd, xorAt_ne _ _ hd,
    addAt_ne _ _ ha]

/-- A quarter-round writes no position but its four (R113). -/
theorem quarterRound_of_notMem (x : Block) {a b c d e : Fin 16} (he : e ∉ [a, b, c, d]) :
    (quarterRound x a b c d)[e] = x[e] := by
  rw [quarterRound_eq_halves, halfQuarterRound_of_notMem _ he, halfQuarterRound_of_notMem _ he]

/-- Settles O11: the second half computes its four words from the four of the first half. -/
theorem quarterRoundMixesFourWords : Obligations.QuarterRoundMixesFourWords := by
  intro x a b c d h
  obtain ⟨ha₁, hb₁, hc₁, hd₁⟩ := halfQuarterRound_words x h rot1 rot2
  have hsecond := halfQuarterRound_words (halfQuarterRound x a b c d rot1 rot2) h rot3 rot4
  rw [ha₁, hb₁, hc₁, hd₁] at hsecond
  obtain ⟨ha₂, hb₂, hc₂, hd₂⟩ := hsecond
  exact ⟨ha₂, hb₂, hc₂, hd₂, fun e he => quarterRound_of_notMem x he⟩

/-! ### The input vector -/

section InputVector

variable (F : Family) (k : Key) (b : Word)

theorem inputVector_cin (i : Fin 4) : (inputVector F k b)[i.val] = F.cin[i] := by
  match i with | 0 | 1 | 2 | 3 => rfl

theorem inputVector_key (i : Fin 4) : (inputVector F k b)[4 + i.val] = k[i] := by
  match i with | 0 | 1 | 2 | 3 => rfl

theorem inputVector_civ (i : Fin 5) : (inputVector F k b)[8 + i.val] = F.civ[i] := by
  match i with | 0 | 1 | 2 | 3 | 4 => rfl

theorem inputVector_blockCounter : (inputVector F k b)[13] = b + 1 := rfl

theorem inputVector_lastTwo : (inputVector F k b)[14] = 0 ∧ (inputVector F k b)[15] = 0 := ⟨rfl, rfl⟩

/-- The block counter word is the block index plus one, modulo `2^64` (R112). -/
theorem inputVector_blockCounter_toNat : (inputVector F k b)[13].toNat = (b.toNat + 1) % 2 ^ 64 := by
  rw [inputVector_blockCounter, BitVec.toNat_add]
  rfl

end InputVector

/-- Settles O13: a counter's block index is below `2^60`, so one more does not wrap. -/
theorem inputVectorWords : Obligations.InputVectorWords := by
  refine ⟨fun F k b => ⟨inputVector_cin F k b, inputVector_key F k b, inputVector_civ F k b,
    inputVector_blockCounter_toNat F k b, inputVector_lastTwo F k b⟩, fun F k c => ?_⟩
  have hlt : (blockIndex c).toNat < 2 ^ 60 := blockIndex_lt c
  rw [inputVector_blockCounter_toNat]
  omega

/-! ### The block function -/

/-- The rounds are the iterates of one round (R115). -/
theorem mixRounds_eq_iterate (n : Nat) (x : Block) : mixRounds n x = mixRound^[n] x := by
  induction n generalizing x with
  | zero => rfl
  | succ n ih => rw [mixRounds_succ, ih, Function.iterate_succ_apply]

/-- A word of the block is the word after the rounds plus the input word (R116, R118). -/
theorem block_getElem (F : Family) (k : Key) (b : Word) (i : Fin 16) :
    (block F k b)[i] = (mixRounds F.rounds.toNat (inputVector F k b))[i] + (inputVector F k b)[i] := by
  rw [block_eq, feedForward_getElem]

/-- Settles O14: the listed quarter-rounds are the schedule, and the rounds iterate it. -/
theorem blockIsRoundsPlusInput : Obligations.BlockIsRoundsPlusInput := by
  intro F k b i input round
  have hround : round = mixRound := rfl
  have hinput : input = inputVector F k b := rfl
  rw [block_getElem, mixRounds_eq_iterate, hround, hinput]

/-- Without rounds the feed-forward adds the input vector to itself (R120). -/
theorem block_getElem_of_rounds_eq_zero {F : Family} (hF : F.rounds = 0) (k : Key) (b : Word) (i : Fin 16) :
    (block F k b)[i] = 2 * (inputVector F k b)[i] := by
  have hzero : F.rounds.toNat = 0 := by rw [hF]; rfl
  rw [block_getElem, hzero, mixRounds_zero, two_mul]

/-- Settles O15: every word is twice the input word, and the words named are those of the input vector. -/
theorem blockOfNoRoundsIsTwiceTheInput : Obligations.BlockOfNoRoundsIsTwiceTheInput := by
  intro F k b hF
  have hword (i : Fin 16) : (block F k b)[i] = 2 * (inputVector F k b)[i] := block_getElem_of_rounds_eq_zero hF k b i
  refine ⟨hword, hword 13, (hword 14).trans (mul_zero 2), (hword 15).trans (mul_zero 2), fun i => ?_⟩
  rw [← inputVector_key F k b i]
  exact hword ⟨4 + i, by omega⟩

end Sys2Proof.Machine
end

section
/-! Draw and skip-ahead (42_draw.md R130 to R138): how a counter value splits, one NEXT, and NEXT repeated. -/

namespace Sys2Proof.Machine

/-! ### The counter's block index and offset -/

/-- The block index is the counter divided by 16 (R130). -/
theorem blockIndex_toNat (c : Word) : (blockIndex c).toNat = c.toNat / 16 := by
  rw [blockIndex, BitVec.toNat_ushiftRight, Nat.shiftRight_eq_div_pow]

/-- Fewer steps than the block has words left stay in the block. -/
theorem blockIndex_add_ofNat_of_lt {c : Word} {n : Nat} (h : c.toNat % 16 + n < 16) :
    blockIndex (c + BitVec.ofNat 64 n) = blockIndex c := by
  have hc : c.toNat < 2 ^ 64 := c.isLt
  apply BitVec.eq_of_toNat_eq
  simp only [blockIndex_toNat, BitVec.toNat_add, BitVec.toNat_ofNat]
  omega

/-- The step from offset 15 leaves the block, also where the counter wraps (R132, R134). -/
theorem blockIndex_add_one_ne {c : Word} (h : c.toNat % 16 = 15) : blockIndex (c + 1) ≠ blockIndex c := by
  have hc : c.toNat < 2 ^ 64 := c.isLt
  have hsum : (c + 1).toNat = (c.toNat + 1) % 2 ^ 64 := BitVec.toNat_add c 1
  intro heq
  have hdiv : (c + 1).toNat / 16 = c.toNat / 16 := by rw [← blockIndex_toNat, heq, blockIndex_toNat]
  omega

/-- Settles O16: a shift by four divides by 16, and the low four bits are the remainder. -/
theorem counterSplitsIntoBlockAndOffset : Obligations.CounterSplitsIntoBlockAndOffset := by
  intro F k c
  have hlow : (c &&& 0xF).toNat = c.toNat % 16 :=
    (BitVec.toNat_and c 0xF).trans (Nat.and_two_pow_sub_one_eq_mod c.toNat 4)
  exact ⟨blockIndex_toNat c, rfl, rfl, hlow.symm, rfl⟩

/-! ### One command -/

/-- Settles O21: a skip is one addition, modulo `2^64`. -/
theorem discardAddsToTheCounter : Obligations.DiscardAddsToTheCounter :=
  ⟨decode_encode .discard, fun s => ⟨_, exec_discard s, BitVec.toNat_add s.ctr s.arg[0], rfl⟩⟩

/-- Settles O17: the draw misses or hits; no block index is the sentinel, and offset 15 is the last of its block. -/
theorem nextDrawsTheCachedWord : Obligations.NextDrawsTheCachedWord := by
  refine ⟨decode_encode .next, fun s => ⟨fun hmiss => ?_, fun hhit => ?_, fun hcidx => ?_, blockIndex_add_one_ne⟩⟩
  · rw [exec_next, State.draw_miss _ s hmiss]
    rfl
  · rw [exec_next, State.draw_hit _ s hhit]
    rfl
  · rw [hcidx]
    exact (blockIndex_ne_sentinel s.ctr).symm

/-! ### NEXT repeated -/

theorem runCommands_cons {i : Instr} {s t : State} (h : exec i s = .next t) (is : List Instr) :
    runCommands (i :: is) s = runCommands is t := by
  rw [runCommands, h]

/-- The state after an accepted NEXT on the machine of `step` (R131). -/
def State.afterNext (s : State) : State := (s.draw Config.family).accept

theorem exec_next_eq_afterNext (s : State) : exec .next s = .next s.afterNext := exec_next s

/-- NEXT commands in a row complete from every state. -/
theorem runCommands_replicate_next (n : Nat) (s : State) :
    runCommands (List.replicate n .next) s = .next (State.afterNext^[n] s) := by
  induction n generalizing s with
  | zero => rfl
  | succ n ih => exact (runCommands_cons (exec_next_eq_afterNext s) _).trans (ih s.afterNext)

section AfterNext

variable (s : State)

@[simp] theorem State.afterNext_key : s.afterNext.key = s.key := State.draw_key _ s
@[simp] theorem State.afterNext_ctr : s.afterNext.ctr = s.ctr + 1 := State.draw_ctr _ s
@[simp] theorem State.afterNext_cidx : s.afterNext.cidx = blockIndex s.ctr := State.draw_cidx _ s

/-- One PERMUTE on a miss and none on a hit (R131, R132). -/
theorem State.afterNext_permutes : s.afterNext.permutes =
    if s.cidx = blockIndex s.ctr then s.permutes else s.permutes ++ [blockIndex s.ctr] :=
  (State.draw_permutes _ s).trans (State.refreshCache_permutes _ s)

variable {s}

theorem CacheValid.afterNext (hs : CacheValid Config.family s) : CacheValid Config.family s.afterNext :=
  exec_cacheValid hs (exec_next_eq_afterNext s)

/-- The word of a NEXT, under a valid cache (10_state.md R28). -/
theorem CacheValid.afterNext_res_zero (hs : CacheValid Config.family s) :
    s.afterNext.res[0] = streamWord Config.family s.key s.ctr := State.draw_res_zero _ s hs

/-- Under valid caches, key and counter decide the word, key and counter of a NEXT. -/
theorem CacheValid.afterNext_congr {t : State} (hs : CacheValid Config.family s) (ht : CacheValid Config.family t)
    (hkey : s.key = t.key) (hctr : s.ctr = t.ctr) :
    s.afterNext.res[0] = t.afterNext.res[0] ∧ s.afterNext.key = t.afterNext.key ∧
      s.afterNext.ctr = t.afterNext.ctr := by
  rw [hs.afterNext_res_zero, ht.afterNext_res_zero]
  simp [hkey, hctr]

theorem CacheValid.afterNext_iterate (hs : CacheValid Config.family s) (n : Nat) :
    CacheValid Config.family (State.afterNext^[n] s) := by
  induction n with
  | zero => exact hs
  | succ n ih =>
    rw [Function.iterate_succ_apply']
    exact ih.afterNext

variable (s) (n : Nat)

@[simp] theorem State.afterNext_iterate_key : (State.afterNext^[n] s).key = s.key := by
  induction n with
  | zero => rfl
  | succ n ih => rw [Function.iterate_succ_apply', State.afterNext_key, ih]

@[simp] theorem State.afterNext_iterate_ctr : (State.afterNext^[n] s).ctr = s.ctr + BitVec.ofNat 64 n := by
  induction n with
  | zero => exact (BitVec.add_zero s.ctr).symm
  | succ n ih =>
    rw [Function.iterate_succ_apply', State.afterNext_ctr, ih, BitVec.ofNat_add, BitVec.add_assoc]
    rfl

variable {s n}

/-- Draws that stay in the block of the first one hit after it (R132): they record nothing more. -/
theorem State.afterNext_iterate_permutes (h : s.ctr.toNat % 16 + n < 16) :
    (State.afterNext^[n + 1] s).permutes = s.afterNext.permutes := by
  induction n with
  | zero => rfl
  | succ n ih =>
    have hbefore : (State.afterNext^[n + 1] s).cidx = blockIndex s.ctr := by
      rw [Function.iterate_succ_apply', State.afterNext_cidx, State.afterNext_iterate_ctr,
        blockIndex_add_ofNat_of_lt (by omega)]
    have hhit : (State.afterNext^[n + 1] s).cidx = blockIndex (State.afterNext^[n + 1] s).ctr := by
      rw [hbefore, State.afterNext_iterate_ctr, blockIndex_add_ofNat_of_lt h]
    rw [Function.iterate_succ_apply', State.afterNext_permutes, if_pos hhit, ih (by omega)]

end AfterNext

/-- Settles O20: the sixteen draws are of one block, so what the first one records is all they record. -/
theorem sixteenDrawsPermuteAtMostOnce : Obligations.SixteenDrawsPermuteAtMostOnce := by
  intro s hs
  have hall : (State.afterNext^[16] s).permutes = s.afterNext.permutes :=
    State.afterNext_iterate_permutes (n := 15) (by omega)
  refine ⟨_, _, exec_next_eq_afterNext s, runCommands_replicate_next 16 s, fun hmiss => ?_, fun hhit => ?_⟩
  · have hfirst : s.afterNext.permutes = s.permutes ++ [blockIndex s.ctr] :=
      s.afterNext_permutes.trans (if_neg hmiss)
    exact ⟨hfirst, hall.trans hfirst⟩
  · exact hall.trans (s.afterNext_permutes.trans (if_pos hhit))

/-- Settles O19: the last counter value names word 15 of the last block; the wrapped counter is in block 0, which the
cache then does not hold. -/
theorem counterWrapsAfterTheLastWord : Obligations.CounterWrapsAfterTheLastWord := by
  intro s hs hctr
  have hwrap : s.afterNext.ctr = 0 := by
    rw [State.afterNext_ctr, hctr]
    rfl
  have hmiss : s.afterNext.cidx ≠ blockIndex s.afterNext.ctr := by
    rw [State.afterNext_cidx, hwrap, hctr]
    decide
  refine ⟨_, _, exec_next_eq_afterNext s, exec_next_eq_afterNext s.afterNext, ?_, hwrap, ?_, ?_, ?_⟩
  · rw [hs.afterNext_res_zero, hctr]
    rfl
  · rw [hs.afterNext.afterNext_res_zero, hwrap, State.afterNext_key]
    rfl
  · rw [State.afterNext_ctr, hwrap]
    rfl
  · rw [State.afterNext_permutes, if_neg hmiss, hwrap]
    rfl

/-! ### Skipping ahead and the stream law -/

/-- Settles O22: the skip and the `n` draws leave valid caches with one key and one counter, so the NEXT after each gives
the same. -/
theorem discardThenNextIsThatManyNexts : Obligations.DiscardThenNextIsThatManyNexts := by
  intro s hs
  have hskipped : CacheValid Config.family (s.skip s.arg[0]).accept := exec_cacheValid hs (exec_discard s)
  have hdrawn : CacheValid Config.family (State.afterNext^[s.arg[0].toNat] s) := hs.afterNext_iterate _
  have hctr : (State.afterNext^[s.arg[0].toNat] s).ctr = s.ctr + s.arg[0] := by
    rw [State.afterNext_iterate_ctr, BitVec.ofNat_toNat, BitVec.setWidth_eq]
  refine ⟨_, _, runCommands_cons (exec_discard s) _, runCommands_replicate_next _ s, ?_⟩
  rw [Function.iterate_succ_apply']
  exact hskipped.afterNext_congr hdrawn (s.afterNext_iterate_key _).symm hctr.symm

/-- The seeding commands and LOAD invalidate the cache (40_seeding.md R100; 44_state_transfer.md R162). -/
theorem exec_cidx_eq_sentinel {i : Instr} (hi : i ∈ [Instr.seed, Instr.seedDef, Instr.seedEnt, Instr.load])
    {s t : State} (h : exec i s = .next t) : t.cidx = sentinel := by
  simp only [List.mem_cons, List.not_mem_nil, or_false] at hi
  rcases hi with rfl | rfl | rfl | rfl <;> cases h <;> rfl

/-- Settles O23: an invalidated cache is valid, and from a valid cache a run follows the stream; the other four commands
write no register of the identity. -/
theorem streamLawAfterSeeding : Obligations.StreamLawAfterSeeding := by
  constructor
  · intro i hi s u hu h ops
    have hvalid : CacheValid Config.family u := .of_cidx_eq_sentinel (exec_cidx_eq_sentinel hi hu)
    exact ⟨_, runStream_eq h ops u, hvalid.newValues_afterOps h ops, State.afterOps_key _ h ops u,
      State.afterOps_ctr _ h ops u⟩
  · intro i hi s t h
    simp only [List.mem_cons, List.not_mem_nil, or_false] at hi
    rcases hi with rfl | rfl | rfl | rfl <;> cases h <;> simp [State.saveIdentity]

end Sys2Proof.Machine
end

section
/-! Equality of generators (43_equality.md R150 to R152): `Equal` as equality of key and counter, equal generators under
draws and skips, and the command EQUALS. -/

namespace Sys2Proof.Machine

/-! ### `Equal` is equality of key and counter -/

/-- `Equal` compares the identity tuple (R150; 10_state.md R27). -/
theorem equalIdentity_eq_true {F : Family} {x y : Identity F} :
    equalIdentity x y = true ↔ x.key = y.key ∧ x.ctr = y.ctr :=
  sameIdentityWords_eq_true

/-- Two engines of one family are Equal exactly when key and counter agree. -/
theorem Engine.equal_eq_true {F : Family} {d e : Engine F} :
    d.equal e = true ↔ d.state.key = e.state.key ∧ d.state.ctr = e.state.ctr :=
  equalIdentity_eq_true

/-! ### Equal generators give equal output -/

/-- `Equal` survives any run of draws and skips: it moves the counter by its operations alone, and no key. -/
theorem State.afterOps_identity_congr {F : Family} {s t : State} (hkey : s.key = t.key) (hctr : s.ctr = t.ctr)
    (h g : Nat) (ops : List StreamOp) :
    (s.afterOps F h ops).key = (t.afterOps F g ops).key ∧ (s.afterOps F h ops).ctr = (t.afterOps F g ops).ctr := by
  simp [hkey, hctr]

/-- Two valid caches over one key and counter hand out the same words, whatever they hold (R152). -/
theorem CacheValid.newValues_afterOps_congr {F : Family} {s t : State} (hs : CacheValid F s) (ht : CacheValid F t)
    (hkey : s.key = t.key) (hctr : s.ctr = t.ctr) (h g : Nat) (ops : List StreamOp) :
    newValues s (s.afterOps F h ops) = newValues t (t.afterOps F g ops) := by
  rw [hs.newValues_afterOps, ht.newValues_afterOps, hkey, hctr]

/-- Settles O26: both runs complete, their words follow from key and counter alone, and so do the key and counter they
end with. -/
theorem equalGeneratorsGiveEqualOutput : Obligations.EqualGeneratorsGiveEqualOutput := by
  constructor
  · intro F d e hd he heq h g ops
    obtain ⟨hkey, hctr⟩ := Engine.equal_eq_true.mp heq
    exact ⟨⟨_⟩, ⟨_⟩, runStreamOf_eq F h ops _, runStreamOf_eq F g ops _,
      hd.newValues_afterOps_congr he hkey hctr h g ops,
      Engine.equal_eq_true.mpr (State.afterOps_identity_congr hkey hctr h g ops)⟩
  · intro s t hs ht heq h g ops
    obtain ⟨hkey, hctr⟩ := equalIdentity_eq_true.mp heq
    exact ⟨_, _, runStream_eq h ops s, runStream_eq g ops t, hs.newValues_afterOps_congr ht hkey hctr h g ops,
      equalIdentity_eq_true.mpr (State.afterOps_identity_congr hkey hctr h g ops)⟩

/-! ### The laws of `Equal`, and EQUALS -/

/-- What EQUALS puts into RES0: 1 exactly when all five words agree (R151). -/
theorem boolWord_sameIdentityWords (k k' : Key) (c c' : Word) :
    boolWord (sameIdentityWords k c k' c') = if k = k' ∧ c = c' then 1 else 0 := by
  simp only [boolWord, sameIdentityWords_eq_true]

/-- Settles O24: EQUALS compares with the key in ARG0 to ARG3 and the counter in ARG4, and writes RES0 and STATUS. -/
theorem equalsComparesTheIdentityWords : Obligations.EqualsComparesTheIdentityWords := by
  refine ⟨decode_encode .equals, fun s => ?_⟩
  rw [exec_equals, boolWord_sameIdentityWords]
  rfl

/-- Settles O25: each law is that of equality on key and counter. -/
theorem equalIsEqualityOfIdentity : Obligations.EqualIsEqualityOfIdentity := by
  refine ⟨fun F d e => Engine.equal_eq_true, fun F e => Engine.equal_eq_true.mpr ⟨rfl, rfl⟩, fun F d e => ?_,
    fun F c d e hcd hde => ?_, fun s t => rfl⟩
  · rw [Bool.eq_iff_iff, Engine.equal_eq_true, Engine.equal_eq_true]
    exact and_congr eq_comm eq_comm
  · obtain ⟨hkey, hctr⟩ := Engine.equal_eq_true.mp hcd
    obtain ⟨hkey', hctr'⟩ := Engine.equal_eq_true.mp hde
    exact Engine.equal_eq_true.mpr ⟨hkey.trans hkey', hctr.trans hctr'⟩

end Sys2Proof.Machine
end

section
/-! The text form of the identity words (44_state_transfer.md R164 to R167): the numeral of a word digit by digit, and the
parser on the encoder's output. -/

namespace Sys2Proof.Machine

/-! ### Numerals -/

theorem decimalDigits_of_lt (fuel : Nat) {n : Nat} (h : n < 10) : decimalDigits (fuel + 1) n [] = [digitChar n] :=
  if_pos h

theorem decimalDigits_of_ge (fuel : Nat) {n : Nat} (h : 10 ≤ n) :
    decimalDigits (fuel + 1) n [] = decimalDigits fuel (n / 10) [] ++ [digitChar (n % 10)] := by
  rw [decimalDigits, if_neg (Nat.not_lt.mpr h), decimalDigits_append]

/-- What holds of one digit, and of `10 * m + d` if it holds of `m`, holds of every number that the fuel is enough for. -/
theorem decimalDigits_induction {P : Nat → Text → Prop} (digit : ∀ n < 10, P n [digitChar n])
    (snoc : ∀ n t, 10 ≤ n → P (n / 10) t → P n (t ++ [digitChar (n % 10)])) (fuel : Nat) :
    ∀ n < 10 ^ (fuel + 1), P n (decimalDigits (fuel + 1) n []) := by
  induction fuel with
  | zero =>
    intro n hn
    rw [decimalDigits_of_lt 0 hn]
    exact digit n hn
  | succ fuel ih =>
    intro n hn
    rcases Nat.lt_or_ge n 10 with hlt | hge
    · rw [decimalDigits_of_lt _ hlt]
      exact digit n hlt
    · rw [decimalDigits_of_ge _ hge]
      exact snoc n _ hge (ih _ (Nat.div_lt_of_lt_mul (by rwa [← Nat.pow_succ'])))

/-- Twenty digits are enough for every word (R165), so a numeral is one digit or a numeral and one digit more. -/
theorem decimal_induction {P : Nat → Text → Prop} (digit : ∀ n < 10, P n [digitChar n])
    (snoc : ∀ n t, 10 ≤ n → P (n / 10) t → P n (t ++ [digitChar (n % 10)])) (v : Word) : P v.toNat (decimal v) :=
  decimalDigits_induction digit snoc 19 _ (v.isLt.trans (by decide))

theorem isDigit_digitChar {d : Nat} (h : d < 10) : isDigit (digitChar d) = true := (digitChar_facts d h).1

theorem digitValue_digitChar {d : Nat} (h : d < 10) : digitValue (digitChar d) = d := (digitChar_facts d h).2.2.1

theorem eq_zero_of_digitChar_eq {d : Nat} (h : d < 10) : digitChar d = '0' → d = 0 := (digitChar_facts d h).2.2.2

theorem decimalValue_snoc (t : Text) (c : Char) : decimalValue (t ++ [c]) = 10 * decimalValue t + digitValue c := by
  simp [decimalValue]

theorem decimalValue_decimal (v : Word) : decimalValue (decimal v) = v.toNat := by
  refine decimal_induction (P := fun n t => decimalValue t = n) (fun n hn => ?_) (fun n t _ ih => ?_) v
  · simp [decimalValue, digitValue_digitChar hn]
  · rw [decimalValue_snoc, ih, digitValue_digitChar (Nat.mod_lt n (by decide)), Nat.div_add_mod]

theorem isDigit_of_mem_decimal (v : Word) : ∀ c ∈ decimal v, isDigit c = true := by
  refine decimal_induction (P := fun _ t => ∀ c ∈ t, isDigit c = true) (fun n hn => ?_) (fun n t _ ih => ?_) v
  · simpa using isDigit_digitChar hn
  · have hlast : isDigit (digitChar (n % 10)) = true := isDigit_digitChar (Nat.mod_lt n (by decide))
    simpa [or_imp, forall_and] using ⟨ih, hlast⟩

theorem decimal_ne_nil (v : Word) : decimal v ≠ [] :=
  decimal_induction (P := fun _ t => t ≠ []) (by simp) (by simp) v

/-- A numeral of a word above zero does not begin with `0`: what stands before the last digit of a longer one is not zero
either (R165). -/
theorem decimal_head_ne_zero {v : Word} (hv : 0 < v.toNat) : (decimal v).head? ≠ some '0' := by
  suffices h : decimal v ≠ [] ∧ (0 < v.toNat → (decimal v).head? ≠ some '0') from h.2 hv
  refine decimal_induction (P := fun n t => t ≠ [] ∧ (0 < n → t.head? ≠ some '0'))
    (fun n hn => ⟨by simp, fun hpos h0 => ?_⟩) (fun n t hn ⟨hne, ih⟩ => ⟨by simp, fun _ => ?_⟩) v
  · have : n = 0 := eq_zero_of_digitChar_eq hn (by simpa using h0)
    omega
  · rw [List.head?_append_of_ne_nil _ hne]
    exact ih (by omega)

/-- Only the numeral of zero begins with `0`. -/
theorem decimal_eq_of_head_zero {v : Word} (h : (decimal v).head? = some '0') : decimal v = ['0'] := by
  obtain rfl : v = 0 := BitVec.eq_of_toNat_eq (Nat.eq_zero_of_not_pos fun hv => decimal_head_ne_zero hv h)
  rfl

theorem decimalDigits_length_le (fuel n : Nat) : (decimalDigits fuel n []).length ≤ fuel := by
  induction fuel generalizing n with
  | zero => simp [decimalDigits]
  | succ fuel ih =>
    rcases Nat.lt_or_ge n 10 with hlt | hge
    · simp [decimalDigits_of_lt fuel hlt]
    · simpa [decimalDigits_of_ge fuel hge] using ih (n / 10)

theorem decimal_length_le (v : Word) : (decimal v).length ≤ 20 := decimalDigits_length_le 20 _

/-! ### The parser on numerals -/

/-- A run of digits after whitespace is one field, in range or not (R166). -/
theorem parseField_of_digits {ws ds rest : Text} (hws : ∀ c ∈ ws, isSpace c = true) (hds : ∀ c ∈ ds, isDigit c = true)
    (hne : ds ≠ []) (hrest : ∀ c ∈ rest.head?, isDigit c = false) :
    parseField (ws ++ (ds ++ rest)) =
      if decimalValue ds > 2 ^ 64 - 1 then .error .outOfRange else .ok (BitVec.ofNat 64 (decimalValue ds), rest) := by
  have hstart : ∀ c ∈ (ds ++ rest).head?, isSpace c = false := by
    obtain ⟨d, ds, rfl⟩ := List.exists_cons_of_ne_nil hne
    simpa using isSpace_of_isDigit (hds d List.mem_cons_self)
  obtain ⟨-, hskip⟩ := span_append isSpace ws (ds ++ rest) hws hstart
  obtain ⟨htake, hdrop⟩ := span_append isDigit ds rest hds hrest
  simp only [parseField, hskip, htake, hdrop, if_neg hne]

/-- The numeral of a word after whitespace is read back as the word. -/
theorem parseField_decimal {ws rest : Text} (hws : ∀ c ∈ ws, isSpace c = true) (v : Word)
    (hrest : ∀ c ∈ rest.head?, isDigit c = false) : parseField (ws ++ (decimal v ++ rest)) = .ok (v, rest) := by
  have hv : ¬v.toNat > 2 ^ 64 - 1 := by have := v.isLt; omega
  rw [parseField_of_digits hws (isDigit_of_mem_decimal v) (decimal_ne_nil v) hrest, decimalValue_decimal, if_neg hv,
    BitVec.ofNat_toNat, BitVec.setWidth_eq]

/-- The numerals of a list of words, a space before each. -/
def spacedNumerals (vs : List Word) : Text := vs.flatMap fun v => ' ' :: decimal v

theorem spacedNumerals_cons (v : Word) (vs : List Word) :
    spacedNumerals (v :: vs) = ' ' :: decimal v ++ spacedNumerals vs := rfl

/-- No digit follows a numeral in such a list. -/
theorem spacedNumerals_append_head {rest : Text} (hrest : ∀ c ∈ rest.head?, isDigit c = false) (vs : List Word) :
    ∀ c ∈ (spacedNumerals vs ++ rest).head?, isDigit c = false := by
  cases vs with
  | nil => exact hrest
  | cons v vs =>
    have hspace : isDigit ' ' = false := by decide
    simpa [spacedNumerals_cons] using hspace

/-- As many fields as there are numerals give the words back, and the text after them. -/
theorem parseFields_spacedNumerals {rest : Text} (hrest : ∀ c ∈ rest.head?, isDigit c = false) (vs : List Word) :
    parseFields vs.length (spacedNumerals vs ++ rest) = .ok (vs, rest) := by
  induction vs with
  | nil => rfl
  | cons v vs ih =>
    have hfield : parseField (spacedNumerals (v :: vs) ++ rest) = .ok (v, spacedNumerals vs ++ rest) := by
      rw [spacedNumerals_cons, List.append_assoc]
      exact parseField_decimal (ws := [' ']) (by simp [isSpace]) v (spacedNumerals_append_head hrest vs)
    simp only [List.length_cons, parseFields, hfield, ih]

/-! ### The parser on an encoding -/

/-- Five words from each of them. -/
theorem IdentityWords.eta (w : IdentityWords) : #v[w[0], w[1], w[2], w[3], w[4]] = w := by
  rw [← set_all_res w w[0] w[1] w[2] w[3] w[4]]
  simp

/-- An encoding is the list of its numerals without the first space. -/
theorem space_cons_encodeText (w : IdentityWords) :
    ' ' :: encodeText w = spacedNumerals [w[0], w[1], w[2], w[3], w[4]] := by
  simp [encodeText, spacedNumerals]

/-- Whitespace before the first field is skipped (R166). -/
theorem parseText_space_cons (t : Text) : parseText (' ' :: t) = parseText t := rfl

/-- After an encoding the parser makes its end check: nothing but whitespace may follow (R166). -/
theorem parseText_encodeText_append (w : IdentityWords) {rest : Text} (hrest : ∀ c ∈ rest.head?, isDigit c = false) :
    parseText (encodeText w ++ rest) = if rest.dropWhile isSpace = [] then .ok w else .error .malformed := by
  have hfields : parseFields 5 (' ' :: encodeText w ++ rest) = .ok ([w[0], w[1], w[2], w[3], w[4]], rest) := by
    rw [space_cons_encodeText]
    exact parseFields_spacedNumerals hrest [w[0], w[1], w[2], w[3], w[4]]
  rw [← parseText_space_cons, ← List.cons_append, parseText, hfields]
  simp only [IdentityWords.eta]

theorem parseText_encodeText (w : IdentityWords) : parseText (encodeText w) = .ok w := by
  simpa using parseText_encodeText_append w (rest := []) (by simp)

/-- Settles O32: nothing follows the fifth numeral; leading zeros are read and never written. -/
theorem parsingUndoesEncoding : Obligations.ParsingUndoesEncoding :=
  ⟨parseText_encodeText, "007 0 0 0 0".toList, #v[7, 0, 0, 0, 0], by decide, by decide⟩

/-! ### What the encoder writes -/

theorem encodeText_length_le (w : IdentityWords) : (encodeText w).length ≤ 104 := by
  have h0 := decimal_length_le w[0]
  have h1 := decimal_length_le w[1]
  have h2 := decimal_length_le w[2]
  have h3 := decimal_length_le w[3]
  have h4 := decimal_length_le w[4]
  simp only [encodeText, List.length_append, List.length_cons]
  omega

/-- Settles O33: each part is a fact about one numeral; five words `2^64 - 1` need all 104 characters. -/
theorem encoderWritesShortestNumerals : Obligations.EncoderWritesShortestNumerals := by
  refine ⟨fun v => ⟨decimalValue_decimal v, fun c hc => (isDigit_iff c).mp (isDigit_of_mem_decimal v c hc),
    decimal_ne_nil v, decimal_eq_of_head_zero⟩, fun w => ⟨?_, encodeText_length_le w⟩,
    Vector.replicate 5 maxWord, by decide⟩
  simp [encodeText]

end Sys2Proof.Machine
end

section
/-! State transfer (44_state_transfer.md R161 to R169): SAVE and LOAD, the host procedures made of them, and the round trip.
Stated for every family; the machine of `step` is an engine of `Config.family`. -/

namespace Sys2Proof.Machine

/-! ### SAVE and LOAD -/

/-- The five identity words in the order of R160. -/
def State.identityWords (s : State) : IdentityWords := #v[s.key[0], s.key[1], s.key[2], s.key[3], s.ctr]

theorem State.saveIdentity_eq (s : State) : s.saveIdentity = { s with res := s.identityWords } := by
  rw [State.identityWords, ← set_all_res s.res]
  rfl

/-- Settles O27: SAVE's five writes fill RES with the identity words. -/
theorem saveWritesTheIdentityWords : Obligations.SaveWritesTheIdentityWords := by
  refine ⟨decode_encode .save, fun s => ?_⟩
  rw [exec_save, State.saveIdentity_eq]
  rfl

/-- Settles O28: LOAD takes its words from ARG0 to ARG4 and invalidates the cache. -/
theorem loadRestoresTheIdentityWords : Obligations.LoadRestoresTheIdentityWords :=
  ⟨decode_encode .load, fun s => exec_load s⟩

/-! ### Serialize -/

/-- The state after host `h` read `RES[i]`. -/
def State.afterResRead (h : Nat) (s : State) (i : Fin 5) : State := s.respond ⟨h, resOffset i, s.res[i]⟩

/-- The state after Serialize by host `h`: SAVE, then five reads (R168). -/
def State.afterSerialize (h : Nat) (s : State) : State :=
  [0, 1, 2, 3, 4].foldl (State.afterResRead h) s.saveIdentity.accept

theorem runAccessesOf_serializeAccesses (F : Family) (h : Nat) (s : State) :
    runAccessesOf F h serializeAccesses s = .next (s.afterSerialize h) := by
  have hsave : portAccessOf F h (commandAccess .save) s = .next s.saveIdentity.accept := portAccessOf_command F h .save s
  have hread (i : Fin 5) (t : State) : portAccessOf F h (resRead i) t = .next (t.afterResRead h i) :=
    portAccessOf_resRead F h i t
  simp only [serializeAccesses, runAccessesOf, hsave, hread]
  rfl

/-- The five reads hand out the identity words. -/
theorem newValues_afterSerialize (h : Nat) (s : State) :
    newValues s (s.afterSerialize h) = [s.key[0], s.key[1], s.key[2], s.key[3], s.ctr] := by
  simp [newValues, State.afterSerialize, State.afterResRead, State.saveIdentity_eq, State.identityWords]

theorem serializeWith_runAccessesOf (F : Family) (h : Nat) (s : State) :
    serializeWith F (runAccessesOf F h) s = some (s.afterSerialize h, ⟨encodeText s.identityWords⟩) := by
  simp only [serializeWith, runAccessesOf_serializeAccesses, newValues_afterSerialize]
  rfl

/-- On the machine of `step`. -/
theorem serialize_eq (h : Nat) (s : State) :
    serialize h s = some (s.afterSerialize h, ⟨encodeText s.identityWords⟩) := by
  rw [serialize, ← serializeWith_runAccessesOf, funext fun as => funext (runAccessesOf_family h as)]

/-- On an engine of any family. -/
theorem Engine.serialize_eq {F : Family} (e : Engine F) (h : Nat) :
    e.serialize h = some (⟨e.state.afterSerialize h⟩, ⟨encodeText e.state.identityWords⟩) := by
  rw [Engine.serialize, serializeWith_runAccessesOf, Option.map_some]

/-! ### Deserialize -/

/-- The five words in ARG0 to ARG4, staged for LOAD (R169). -/
def State.stageWords (s : State) (w : IdentityWords) : State :=
  { s with arg := #v[w[0], w[1], w[2], w[3], w[4], s.arg[5], s.arg[6], s.arg[7]] }

theorem State.setArg_five (s : State) (w : IdentityWords) :
    ((((s.setArg 0 w[0]).setArg 1 w[1]).setArg 2 w[2]).setArg 3 w[3]).setArg 4 w[4] = s.stageWords w := by
  rw [State.stageWords, ← set_first_args s.arg]
  rfl

/-- The state after a successful Deserialize: five writes of ARG, then LOAD (R169). -/
def State.afterDeserialize (s : State) (w : IdentityWords) : State := (s.stageWords w).loadIdentity.accept

theorem runAccessesOf_loadAccesses (F : Family) (h : Nat) (w : IdentityWords) (s : State) :
    runAccessesOf F h (loadAccesses w) s = .next (s.afterDeserialize w) := by
  have hload (t : State) : portAccessOf F h (commandAccess .load) t = .next t.loadIdentity.accept :=
    portAccessOf_command F h .load t
  simp only [loadAccesses, runAccessesOf, portAccessOf_argWrite, hload, State.setArg_five]
  rfl

theorem deserializeWith_of_parse {F : Family} {t : SavedText F} {w : IdentityWords} (ht : parseText t.text = .ok w)
    (run : List Access → State → Host.Outcome State Fault Refusal) (s : State) :
    deserializeWith run t s = .ok (run (loadAccesses w) s) := by
  rw [deserializeWith, ht]

/-- On the machine of `step`. -/
theorem deserialize_of_parse {t : SavedText Config.family} {w : IdentityWords} (ht : parseText t.text = .ok w) (h : Nat)
    (s : State) : deserialize h t s = .ok (.next (s.afterDeserialize w)) := by
  rw [deserialize, deserializeWith_of_parse ht, ← runAccessesOf_family, runAccessesOf_loadAccesses]

/-- On an engine of any family. -/
theorem Engine.deserialize_of_parse {F : Family} {t : SavedText F} {w : IdentityWords} (ht : parseText t.text = .ok w)
    (e : Engine F) (h : Nat) : e.deserialize h t = .ok (.next ⟨e.state.afterDeserialize w⟩) := by
  rw [Engine.deserialize, deserializeWith_of_parse ht, runAccessesOf_loadAccesses]
  rfl

/-- Settles O31: a text that parses is staged in ARG and loaded; on one that does not no access is made. -/
theorem deserializeLoadsOnlyParsedText : Obligations.DeserializeLoadsOnlyParsedText := by
  refine fun h text s => ⟨fun w hw => ⟨_, deserialize_of_parse hw h s, rfl⟩, fun e he => ?_⟩
  rw [deserialize, deserializeWith, he]

/-! ### The round trip -/

/-- What Deserialize of the identity words of `s` leaves on any state: the key and counter of `s` and a valid cache. -/
theorem afterDeserialize_identityWords (F : Family) (s r : State) :
    s.key = (r.afterDeserialize s.identityWords).key ∧ s.ctr = (r.afterDeserialize s.identityWords).ctr ∧
      CacheValid F (r.afterDeserialize s.identityWords) :=
  ⟨(Key.eta s.key).symm, rfl, .of_cidx_eq_sentinel rfl⟩

/-- LOAD of the words of a SAVE restores key and counter. -/
theorem loadIdentity_of_save {s r : State} (h : ∀ i : Fin 5, r.arg[i.val] = s.identityWords[i]) :
    s.key = r.loadIdentity.key ∧ s.ctr = r.loadIdentity.ctr := by
  have hkey : r.operandKey = s.key := by
    have h0 : r.arg[0] = s.key[0] := h 0
    have h1 : r.arg[1] = s.key[1] := h 1
    have h2 : r.arg[2] = s.key[2] := h 2
    have h3 : r.arg[3] = s.key[3] := h 3
    simp [State.operandKey, State.operand, h0, h1, h2, h3]
  exact ⟨hkey.symm, (h 4).symm⟩

/-- Settles O29: both ways move key and counter to the other engine and invalidate its cache, and engines with equal key
and counter and valid caches give the same words. -/
theorem savedStateContinuesOnAnotherEngine : Obligations.SavedStateContinuesOnAnotherEngine := by
  refine ⟨fun h g s u r hs hsave harg => ?_, fun h g s r hs => ?_, fun F h g e d he => ?_⟩
  · rw [exec_save, State.saveIdentity_eq] at hsave
    cases hsave
    obtain ⟨hkey, hctr⟩ := loadIdentity_of_save harg
    have hvalid : CacheValid Config.family r.loadIdentity.accept := .of_cidx_eq_sentinel rfl
    exact ⟨_, exec_load r, equalIdentity_eq_true.mpr ⟨hkey, hctr⟩, fun ops => ⟨_, _, runStream_eq h ops s,
      runStream_eq g ops _, hs.newValues_afterOps_congr hvalid hkey hctr h g ops⟩⟩
  · obtain ⟨hkey, hctr, hvalid⟩ := afterDeserialize_identityWords Config.family s r
    exact ⟨_, _, _, serialize_eq h s, deserialize_of_parse (parseText_encodeText _) g r,
      equalIdentity_eq_true.mpr ⟨hkey, hctr⟩, fun ops => ⟨_, _, runStream_eq h ops s,
      runStream_eq g ops _, hs.newValues_afterOps_congr hvalid hkey hctr h g ops⟩⟩
  · obtain ⟨hkey, hctr, hvalid⟩ := afterDeserialize_identityWords F e.state d.state
    exact ⟨_, _, _, e.serialize_eq h, d.deserialize_of_parse (parseText_encodeText _) g,
      Engine.equal_eq_true.mpr ⟨hkey, hctr⟩, fun ops => ⟨_, _, runStreamOf_eq F h ops _,
      runStreamOf_eq F g ops _, he.newValues_afterOps_congr hvalid hkey hctr h g ops⟩⟩

end Sys2Proof.Machine
end

section
/-! The information commands (45_info.md R181 and R182): each writes its constant to `RES[0]` and reads no state. -/

namespace Sys2Proof.Machine

/-- Settles O36: MINVAL is one write of `RES[0]` on an accepted command. -/
theorem minvalReportsZero : Obligations.MinvalReportsZero :=
  ⟨decode_encode .minval, fun s => exec_minval s⟩

/-- Settles O37: MAXVAL is one write of `RES[0]` on an accepted command. -/
theorem maxvalReportsAllOnes : Obligations.MaxvalReportsAllOnes :=
  ⟨decode_encode .maxval, fun s => exec_maxval s⟩

end Sys2Proof.Machine
end

section
/-! A command error blocks nothing and leaves no history (60_exceptions.md R205): no command word reads STATUS, so
Execute goes on from an error as it would have gone on without it. -/

namespace Sys2Proof.Machine

/-- A command that decodes is performed. -/
theorem executeWord_of_decode_ok {v : Word} {i : Instr} (h : decode v = .ok i) (s : State) :
    executeWord v s = exec i s := by
  rw [executeWord, executeWith, h]

/-- Execute reads no STATUS: a command overwrites it with 0, a rejected word with its code. -/
theorem executeWord_setStatus (v w : Word) (s : State) : executeWord v (s.setStatus w) = executeWord v s := by
  cases h : decode v with
  | ok i => simp only [executeWord_of_decode_ok h, exec_setStatus]
  | error e =>
    rw [executeWord_of_decode_error h, executeWord_of_decode_error h]
    rfl

/-- An earlier error changes nothing of what a command word does (R205). -/
theorem executeWord_commandError (v : Word) (e : CommandError) (s : State) :
    executeWord v (s.commandError e) = executeWord v s :=
  executeWord_setStatus v (errorStatus e) s

/-- Settles O41: an error is a write of STATUS, which Execute does not read; the other clauses are those of Execute
without the error. -/
theorem errorsDoNotOutliveTheNextCommandWord : Obligations.ErrorsDoNotOutliveTheNextCommandWord := by
  refine fun e v s => ⟨executeWord_commandError v e s, fun i h => ?_, fun e' h => ?_⟩
  · obtain ⟨t, ht⟩ := exec_next_state s i
    exact ⟨t, by rw [executeWord_commandError, executeWord_of_decode_ok h, ht], exec_status ht⟩
  · rw [executeWord_commandError, executeWord_of_decode_error h]

end Sys2Proof.Machine
end

section
/-! Reset (70_reset_and_hazards.md R230) and the first draw after it (R231): the values of reset, from every state, and
what NEXT does from them. -/

namespace Sys2Proof.Machine

theorem portEvent_reset (s : State) : portEvent .reset s = .next s.applyReset := rfl

/-- The start of the machine and a reset event on any state reach the same values (R230; 10_state.md R43). -/
theorem hasResetValues_of_reset {r u : State} (hu : u = State.reset ∨ portEvent .reset r = .next u) :
    HasResetValues Config.family u := by
  rcases hu with rfl | h
  · exact resetFrom_hasResetValues Config.family 0
  · cases h
    exact resetEngine_hasResetValues Config.family r.freeNext r

/-- The stream begins with word 0 of block 0 (42_draw.md R130). -/
theorem streamWord_zero (F : Family) (k : Key) : streamWord F k 0 = (block F k 0)[0] := streamWord_ofNat F k 0

/-- Settles O49: the values of reset do not depend on the state it finds. -/
theorem resetEventResetsTheEngine : Obligations.ResetEventResetsTheEngine := by
  intro s
  obtain ⟨hkey, hctr, hcidx, harg, hres, hstatus, hpermutes⟩ := hasResetValues_of_reset (.inr (portEvent_reset s))
  exact ⟨_, portEvent_reset s, hkey, hctr, hcidx, harg, hres, hstatus, hpermutes⟩

/-- Settles O50: the sentinel is no block index, so the first draw misses, and an invalidated cache is valid, so it gives
the stream's word at counter 0. -/
theorem firstDrawAfterReset : Obligations.FirstDrawAfterReset := by
  intro r u hu
  obtain ⟨hkey, hctr, hcidx, -, -, -, hpermutes⟩ := hasResetValues_of_reset hu
  refine ⟨fun s t ht => ?_, u.afterNext, exec_next_eq_afterNext u, ?_, ?_⟩
  · obtain ⟨htkey, htctr, -⟩ := defaultKey_of_reset_or_seedDef (s := s) (.inr (.inr ht))
    rw [State.identity, State.identity, hkey, hctr, htkey, htctr, defaultKey]
  · have hmiss : u.cidx ≠ blockIndex u.ctr := fun h => blockIndex_ne_sentinel u.ctr (h.symm.trans hcidx)
    rw [State.afterNext_permutes, if_neg hmiss, hpermutes, hctr]
    rfl
  · have hvalid : CacheValid Config.family u := .of_cidx_eq_sentinel hcidx
    rw [hvalid.afterNext_res_zero, hkey, hctr, streamWord_zero]

end Sys2Proof.Machine
end

section
/-! Decode and encode (30_encoding.md R70 to R74): the words that are commands, and why the others are rejected. -/

namespace Sys2Proof

/-- Settles O2: the decoder compares all 64 bits, so it accepts a command's own word and no other. -/
theorem wordDecodesOnlyToTheCommandItEncodes : Obligations.WordDecodesOnlyToTheCommandItEncodes := by
  refine fun w i => ⟨eq_encode_of_decode, fun h => ?_⟩
  rw [h, decode_encode]

/-- Settles O1: the table's words are those of the encoder. -/
theorem tableWordsDecodeToTheirCommands : Obligations.TableWordsDecodeToTheirCommands :=
  ⟨decode_encode .seed, decode_encode .seedDef, decode_encode .seedEnt, decode_encode .next, decode_encode .discard,
    decode_encode .equals, decode_encode .save, decode_encode .load, decode_encode .minval, decode_encode .maxval⟩

/-- No bit above the opcode is set exactly when the word is below 256. -/
theorem shiftRight_eight_eq_zero_iff (w : Word) : w >>> 8 = 0 ↔ w.toNat < 256 := by
  rw [← BitVec.toNat_inj, BitVec.toNat_ushiftRight, Nat.shiftRight_eq_div_pow]
  exact Nat.div_eq_zero_iff_lt (by decide)

theorem decode_eq_reservedBits_iff (w : Word) : decode w = .error .reservedBits ↔ w >>> 8 ≠ 0 := by
  refine ⟨fun h => ?_, decode_of_reservedBits⟩
  rcases decode_cases w with ⟨hne, -⟩ | ⟨i, -, hd⟩ | ⟨-, -, hd⟩
  · exact hne
  · cases hd.symm.trans h
  · cases hd.symm.trans h

theorem decode_eq_illegalOpcode_iff (w : Word) :
    decode w = .error .illegalOpcode ↔ w >>> 8 = 0 ∧ ∀ i, w ≠ encode i := by
  refine ⟨fun h => ?_, fun ⟨hs, hw⟩ => decode_of_ne_encode hs hw⟩
  rcases decode_cases w with ⟨-, hd⟩ | ⟨i, -, hd⟩ | ⟨hs, hw, -⟩
  · cases hd.symm.trans h
  · cases hd.symm.trans h
  · exact ⟨hs, hw⟩

/-- Settles O3: the second clause reads the decoder's two checks as numbers. -/
theorem rejectedWordsAreExactlyTheIllegalOnes : Obligations.RejectedWordsAreExactlyTheIllegalOnes := by
  refine fun w => ⟨decode_eq_reservedBits_iff w, ?_⟩
  rw [decode_eq_illegalOpcode_iff, shiftRight_eight_eq_zero_iff, toNat_mem_opcodes_iff, not_exists]

end Sys2Proof
end

section
/-! What one access does, decided by the access alone (20_memory.md R51 to R53; 30_encoding.md R71). -/

namespace Sys2Proof.Machine

/-- Everything an access can do, on every state alike and on engines of every family: it delivers a register, performs a
command, takes a command error, sets an ARG register, does nothing, or faults. -/
theorem portAccessWith_cases (a : Access) :
    (∃ off, a = .read off 8 ∧ ∀ F run h s,
      portAccessWith F run h a s = .next (s.respond ⟨h, off, readRegister F s (registerAt off)⟩)) ∨
    (∃ i, a = commandAccess i ∧ ∀ F run h s, portAccessWith F run h a s = run i s) ∨
    (∃ e, ∀ F run h s, portAccessWith F run h a s = .next (s.commandError e)) ∨
    (∃ i v, ∀ F run h s, portAccessWith F run h a s = .next (s.setArg i v)) ∨
    (∀ F run h s, portAccessWith F run h a s = .next s) ∨
    (∃ f, ∀ F run h s, portAccessWith F run h a s = .fault f) := by
  rcases a with ⟨off, bytes⟩ | ⟨off, bytes, v⟩
  · by_cases hs : supported off bytes = true
    · obtain ⟨rfl, -, -⟩ := (supported_iff _ _).mp hs
      exact .inl ⟨off, rfl, fun F run h s => by rw [portAccessWith, if_pos hs]⟩
    · exact .inr (.inr (.inr (.inr (.inr ⟨_, fun F run h s => by rw [portAccessWith, if_neg hs]⟩))))
  · by_cases hs : supported off bytes = true
    · obtain ⟨rfl, h8, -⟩ := (supported_iff _ _).mp hs
      have hwrite F run h s :
          portAccessWith F run h (.write off 8 v) s = writeRegisterWith run (registerAt off) v s := by
        rw [portAccessWith, if_pos hs]
      simp only [hwrite]
      cases hr : registerAt off with
      | cmd =>
        obtain rfl := registerAt_eq_cmd hr
        cases hd : decode v with
        | ok i =>
          obtain rfl := eq_encode_of_decode hd
          exact .inr (.inl ⟨i, rfl, fun F run h s => executeWith_encode run i s⟩)
        | error e =>
          exact .inr (.inr (.inl ⟨e, fun F run h s => by rw [writeRegisterWith, executeWith, hd]⟩))
      | arg i => exact .inr (.inr (.inr (.inl ⟨i, v, fun F run h s => rfl⟩)))
      | status | rounds | res _ | reserved => exact .inr (.inr (.inr (.inr (.inl fun F run h s => rfl))))
    · exact .inr (.inr (.inr (.inr (.inr ⟨_, fun F run h s => by rw [portAccessWith, if_neg hs]⟩))))

end Sys2Proof.Machine
end

section
/-! What each command writes (10_state.md section 2), and what a step does with what stands first among the pending
events (20_memory.md R55). -/

namespace Sys2Proof.Machine

/-! ### Which command writes which register -/

section Frame

variable {i : Instr} {s t : State}

theorem exec_key (hi : i ∉ [Instr.seed, Instr.seedDef, Instr.seedEnt, Instr.load]) (h : exec i s = .next t) :
    t.key = s.key := by
  cases i <;> cases h
  case seed | seedDef | seedEnt | load => simp at hi
  case next => exact State.draw_key _ s
  case save => simp [State.saveIdentity]
  case discard | equals | minval | maxval => rfl

theorem exec_ctr (hi : i ∉ [Instr.seed, Instr.seedDef, Instr.seedEnt, Instr.load, Instr.next, Instr.discard])
    (h : exec i s = .next t) : t.ctr = s.ctr := by
  cases i <;> cases h
  case seed | seedDef | seedEnt | load | next | discard => simp at hi
  case save => simp [State.saveIdentity]
  case equals | minval | maxval => rfl

/-- Only NEXT fills the cache, and only with it a PERMUTE is recorded. -/
theorem exec_cache_permutes (hi : i ≠ Instr.next) (h : exec i s = .next t) :
    t.cache = s.cache ∧ t.permutes = s.permutes := by
  cases i <;> cases h
  case next => exact absurd rfl hi
  case save => simp [State.saveIdentity]
  case seed | seedDef | seedEnt | load | discard | equals | minval | maxval => exact ⟨rfl, rfl⟩

theorem exec_cidx (hi : i ∉ [Instr.seed, Instr.seedDef, Instr.seedEnt, Instr.load, Instr.next])
    (h : exec i s = .next t) : t.cidx = s.cidx := by
  cases i <;> cases h
  case seed | seedDef | seedEnt | load | next => simp at hi
  case save => simp [State.saveIdentity]
  case discard | equals | minval | maxval => rfl

theorem exec_res (hi : i ∉ [Instr.next, Instr.equals, Instr.save, Instr.minval, Instr.maxval])
    (h : exec i s = .next t) : t.res = s.res := by
  cases i <;> cases h
  case next | equals | save | minval | maxval => simp at hi
  case seed | seedDef | seedEnt | load | discard => rfl

/-- All results but SAVE's are one word, in `RES[0]`. -/
theorem exec_res_ne_zero (hi : i ≠ Instr.save) (h : exec i s = .next t) {j : Fin 5} (hj : j ≠ 0) :
    t.res[j] = s.res[j] := by
  have hset (v : Word) : (s.res.set 0 v)[j] = s.res[j] := by
    simpa using Vector.getElem_set_ne (by decide) j.isLt (Fin.val_ne_of_ne hj.symm)
  cases i <;> cases h
  case save => exact absurd rfl hi
  case next => simpa [State.draw] using hset _
  case equals | minval | maxval => exact hset _
  case seed | seedDef | seedEnt | load | discard => rfl

end Frame

/-- Settles O38: each command completes, and each clause is one register's row of the table. -/
theorem commandsWriteOnlyTheirRegisters : Obligations.CommandsWriteOnlyTheirRegisters := by
  intro i s
  obtain ⟨t, h⟩ := exec_next_state s i
  exact ⟨t, h, exec_status h, exec_arg h, fun hi => exec_key hi h, fun hi => exec_ctr hi h,
    fun hi => exec_cache_permutes hi h, fun hi => exec_cidx hi h, fun hi => exec_res hi h,
    fun hi _ hj => exec_res_ne_zero hi h hj, exec_hostSide h⟩

/-! ### A step -/

/-- Settles O52: the pending events are taken from the front, and without one a step is idle. -/
theorem stepPerformsTheFirstPendingEvent : Obligations.StepPerformsTheFirstPendingEvent :=
  ⟨fun _ _ _ h => step_cons h, fun _ h => step_nil h⟩

/-- A host's write of a command's word to CMD is the command. -/
theorem portEvent_commandWrite {w : Word} {i : Instr} (hw : decode w = .ok i) (h : Nat) (s : State) :
    portEvent (commandWrite h w) s = exec i s := by
  obtain rfl := eq_encode_of_decode hw
  exact portAccess_command h i s

/-- Settles O51: both clauses are a step whose first event is a write of the command's word to CMD. -/
theorem stepRunsTheDecodedCommand : Obligations.StepRunsTheDecodedCommand := by
  refine ⟨fun s h w i rest hp hw => ?_, fun s nbits w i hw => ?_⟩
  · exact (step_cons hp).trans (portEvent_commandWrite hw h _)
  · have hd : decode (BitVec.ofNat 64 (w % 2 ^ nbits)) = .ok i := by
      unfold decodeTableWord at hw
      split at hw
      · rename_i hd; cases hw; exact hd
      · cases hw
    exact (step_cons rfl).trans (portEvent_commandWrite hd 0 _)

/-- A step is idle, or it performs the first pending event. -/
theorem step_cases {s t : State} (h : step s = .next t) :
    t = s ∨ ∃ e rest, s.pending = e :: rest ∧ portEvent e (s.setPending rest) = .next t := by
  cases hp : s.pending with
  | nil =>
    rw [step_nil hp] at h
    cases h
    exact .inl rfl
  | cons e rest => exact .inr ⟨e, rest, rfl, (step_cons hp).symm.trans h⟩

/-- Settles O39: of all events only a reset and a command write the key, and of the commands only the four. -/
theorem keyChangesOnlyBySeedingLoadOrReset : Obligations.KeyChangesOnlyBySeedingLoadOrReset := by
  intro s t h hne
  rcases step_cases h with rfl | ⟨e, rest, hp, hev⟩
  · exact absurd rfl hne
  · refine ⟨rest, ?_⟩
    rcases portEvent_cases hev with ⟨rfl, -⟩ | ⟨_, _, -, -, rfl⟩ | ⟨g, i, rfl, hexec⟩ | ⟨_, _, _, -, rfl⟩ |
      ⟨_, _, _, -, rfl⟩ | ⟨_, _, _, -, rfl⟩
    · exact .inl hp
    · exact absurd rfl hne
    · have hi : i ∈ [Instr.seed, Instr.seedDef, Instr.seedEnt, Instr.load] := by
        by_contra hi
        exact hne ((exec_key hi hexec).trans (State.setPending_key s rest))
      exact .inr ⟨g, i, hi, hp⟩
    · exact absurd rfl hne
    · exact absurd rfl hne
    · exact absurd rfl hne

/-- Settles O43: the list of delivered values grows by one, and no other field is written. -/
theorem readsDeliverTheirValueAndNothingElse : Obligations.ReadsDeliverTheirValueAndNothingElse :=
  fun h off s h8 hle => portAccess_read_of_supported ((supported_iff off 8).mpr ⟨rfl, h8, hle⟩) h s

/-! ### Invariants of a step -/

/-- What every event keeps, a step keeps, if it does not speak of the pending events. -/
theorem step_keeps {P : State → Prop} (hpending : ∀ {s : State} (rest : List PortEvent), P s → P (s.setPending rest))
    (hevent : ∀ {e : PortEvent} {s t : State}, P s → portEvent e s = .next t → P t) {s t : State} (hs : P s)
    (h : step s = .next t) : P t := by
  rcases step_cases h with rfl | ⟨e, rest, -, hev⟩
  · exact hs
  · exact hevent (hpending rest hs) hev

/-- The seeding commands and LOAD leave the sentinel, NEXT a block index, and the other commands leave CIDX (R25). -/
theorem exec_cidxLegal {i : Instr} {s t : State} (hs : CidxLegal s) (h : exec i s = .next t) : CidxLegal t := by
  cases i <;> cases h
  case seed | seedDef | seedEnt | load => exact .inl rfl
  case next =>
    refine .inr ?_
    rw [State.accept_cidx, State.draw_cidx]
    exact blockIndex_lt s.ctr
  case save => simpa [CidxLegal, State.saveIdentity] using hs
  case discard | equals | minval | maxval => exact hs

theorem portEvent_cidxLegal {e : PortEvent} {s t : State} (hs : CidxLegal s) (h : portEvent e s = .next t) :
    CidxLegal t := by
  rcases portEvent_cases h with ⟨-, rfl⟩ | ⟨_, _, -, -, rfl⟩ | ⟨_, _, -, hexec⟩ | ⟨_, _, _, -, rfl⟩ |
    ⟨_, _, _, -, rfl⟩ | ⟨_, _, _, -, rfl⟩
  · exact .inl (State.applyReset_cidx s)
  · exact hs
  · exact exec_cidxLegal hs hexec
  · exact hs
  · exact hs
  · exact hs

/-- The two error codes of R200 give the two error values of R33. -/
theorem commandError_statusLegal (s : State) (e : CommandError) : StatusLegal (s.commandError e) := by
  cases e with
  | illegalOpcode => exact .inr (.inl rfl)
  | reservedBits => exact .inr (.inr rfl)

theorem portEvent_statusLegal {e : PortEvent} {s t : State} (hs : StatusLegal s) (h : portEvent e s = .next t) :
    StatusLegal t := by
  rcases portEvent_cases h with ⟨-, rfl⟩ | ⟨_, _, -, -, rfl⟩ | ⟨_, _, -, hexec⟩ | ⟨_, _, er, -, rfl⟩ |
    ⟨_, _, _, -, rfl⟩ | ⟨_, _, _, -, rfl⟩
  · exact .inl (State.applyReset_status s)
  · exact hs
  · exact .inl (exec_status hexec)
  · exact commandError_statusLegal s er
  · exact hs
  · exact hs

theorem StatusLegal.err_eq_zero_iff {s : State} (hs : StatusLegal s) :
    statusErr s.status = 0 ↔ statusErrCode s.status = 0 := by
  rcases hs with h | h | h <;> rw [h] <;> decide

/-- Settles O55: both are invariants of every event; the law of ERR and ERRCODE is read off the three values. -/
theorem stepKeepsCidxAndStatusLegal : Obligations.StepKeepsCidxAndStatusLegal :=
  ⟨fun _ _ => step_keeps (fun _ h => h) portEvent_cidxLegal, fun _ _ => step_keeps (fun _ h => h) portEvent_statusLegal,
    .inl rfl, .inl rfl, fun _ => StatusLegal.err_eq_zero_iff⟩

/-- Settles O54: reset leaves the sentinel. -/
theorem resetHasTheCacheInvariant : Obligations.ResetHasTheCacheInvariant := .of_cidx_eq_sentinel rfl

end Sys2Proof.Machine
end

section
/-! Runs of the machine: supported events never stop it (70_reset_and_hazards.md section 5), and two runs that no host
can tell apart stay so, over any caches (10_state.md section 1, output law) and any numbers of the hosts
(60_exceptions.md section 5). -/

namespace Sys2Proof.Machine

/-! ### Supported events -/

/-- With supported events pending a step completes and takes one of them. -/
theorem step_of_pendingSupported {s : State} (hs : PendingSupported s) :
    ∃ t, step s = .next t ∧ t.pending = s.pending.tail := by
  cases hp : s.pending with
  | nil => exact ⟨s, step_nil hp, hp⟩
  | cons e rest =>
    have he : e.isSupported = true := hs e (by simp [hp])
    obtain ⟨t, ht, hrest⟩ := portEvent_supported he (s.setPending rest)
    exact ⟨t, (step_cons hp).trans ht, hrest⟩

/-- Settles O57, by induction on the number of steps: the events that a step leaves are supported too. -/
theorem supportedEventsNeverStopTheEngine : Obligations.SupportedEventsNeverStopTheEngine := by
  intro s hs n
  induction n generalizing s with
  | zero => exact ⟨s, rfl, rfl⟩
  | succ n ih =>
    obtain ⟨u, hu, hpending⟩ := step_of_pendingSupported hs
    have husupported : PendingSupported u := fun e he => hs e (List.mem_of_mem_tail (hpending ▸ he))
    obtain ⟨t, ht, hdrop⟩ := ih u husupported
    exact ⟨t, (core_run_next hu n).trans ht, by rw [hdrop, hpending, List.drop_tail]⟩

/-! ### Outcomes alike -/

/-- Two outcomes alike: next states in relation `R`, or the same fault. -/
def Alike (R : State → State → Prop) (o o' : Host.Outcome State Fault Refusal) : Prop :=
  (∃ s t, o = .next s ∧ o' = .next t ∧ R s t) ∨ ∃ f, o = .fault f ∧ o' = .fault f

section Alike

variable {R : State → State → Prop} {o o' : Host.Outcome State Fault Refusal}

theorem Alike.exists_next (h : Alike R o o') {s : State} (hs : o = .next s) : ∃ t, o' = .next t ∧ R s t := by
  rcases h with ⟨s', t, ho, ho', hR⟩ | ⟨f, ho, -⟩
  · cases ho.symm.trans hs
    exact ⟨t, ho', hR⟩
  · cases ho.symm.trans hs

theorem Alike.fault_eq (h : Alike R o o') {f : Fault} (hf : o = .fault f) : o' = .fault f := by
  rcases h with ⟨s, t, ho, -, -⟩ | ⟨f', ho, ho'⟩
  · cases ho.symm.trans hf
  · cases ho.symm.trans hf
    exact ho'

end Alike

/-! ### The output law: no host sees the cache -/

/-- What two runs keep of each other: a valid cache each, and everything that a host can see. -/
structure Indistinguishable (s t : State) : Prop extends SameVisible s t where
  left : CacheValid Config.family s
  right : CacheValid Config.family t

section Congruence

variable {i : Instr} {s t s' t' : State}

/-- The key and the counter that a command leaves follow from key, counter and ARG. -/
theorem exec_identity_congr (h : SameVisible s t) (hs : exec i s = .next s') (ht : exec i t = .next t') :
    s'.key = t'.key ∧ s'.ctr = t'.ctr := by
  obtain ⟨hkey, hctr, -, harg, -, -, -⟩ := h
  cases i <;> cases hs <;> cases ht
  case seed => simp [State.seedWith, State.seedKey, State.operand, harg]
  case seedDef => exact ⟨rfl, rfl⟩
  case seedEnt => simp [State.seedWith, packedKey_congr harg]
  case next => simp [hkey, hctr]
  case discard => simp [State.skip, State.operand, hkey, hctr, harg]
  case save => simp [State.saveIdentity, hkey, hctr]
  case load => exact ⟨operandKey_congr harg, operandCtr_congr harg⟩
  case equals | minval | maxval => exact ⟨hkey, hctr⟩

/-- So do the results: NEXT gives the stream's word, whatever the two caches hold (R28). -/
theorem exec_res_congr (h : Indistinguishable s t) (hs : exec i s = .next s') (ht : exec i t = .next t') :
    s'.res = t'.res := by
  obtain ⟨⟨hkey, hctr, -, harg, hres, -, -⟩, hvalid, hvalid'⟩ := h
  cases i <;> cases hs <;> cases ht
  case next => simp [State.draw_res, hvalid, hvalid', hkey, hctr, hres]
  case equals => simp [operandKey_congr harg, operandCtr_congr harg, hkey, hctr, hres]
  case save => simp [State.saveIdentity, hkey, hctr, hres]
  case minval | maxval => simp [hres]
  case seed | seedDef | seedEnt | discard | load => exact hres

theorem exec_indistinguishable (h : Indistinguishable s t) (hs : exec i s = .next s') (ht : exec i t = .next t') :
    Indistinguishable s' t' := by
  obtain ⟨hkey, hctr⟩ := exec_identity_congr h.toSameVisible hs ht
  obtain ⟨hpending, hresponses, -⟩ := exec_hostSide hs
  obtain ⟨hpending', hresponses', -⟩ := exec_hostSide ht
  exact {
    key := hkey
    ctr := hctr
    status := (exec_status hs).trans (exec_status ht).symm
    arg := by rw [exec_arg hs, exec_arg ht, h.arg]
    res := exec_res_congr h hs ht
    pending := by rw [hpending, hpending', h.pending]
    responses := by rw [hresponses, hresponses', h.responses]
    left := exec_cacheValid h.left hs
    right := exec_cacheValid h.right ht }

end Congruence

/-- No register of the window shows the cache (R28, R42). -/
theorem SameVisible.readRegister_eq {s t : State} (h : SameVisible s t) (F : Family) (r : Register) :
    readRegister F s r = readRegister F t r := by
  cases r with
  | status => exact h.status
  | arg i => simp only [readRegister, h.arg]
  | res i => simp only [readRegister, h.res]
  | cmd | rounds | reserved => rfl

namespace Indistinguishable

variable {s t : State}

theorem portAccess_alike (h : Indistinguishable s t) (g : Nat) (a : Access) :
    Alike Indistinguishable (portAccess g a s) (portAccess g a t) := by
  rcases portAccessWith_cases a with ⟨off, -, ha⟩ | ⟨i, -, ha⟩ | ⟨e, ha⟩ | ⟨i, v, ha⟩ | ha | ⟨f, ha⟩
  · refine .inl ⟨_, _, ha _ _ g s, ha _ _ g t, { h with responses := ?_ }⟩
    simp [h.responses, h.readRegister_eq]
  · obtain ⟨s', hs⟩ := exec_next_state s i
    obtain ⟨t', ht⟩ := exec_next_state t i
    exact .inl ⟨s', t', (ha _ _ g s).trans hs, (ha _ _ g t).trans ht, exec_indistinguishable h hs ht⟩
  · exact .inl ⟨_, _, ha _ _ g s, ha _ _ g t, { h with status := rfl }⟩
  · exact .inl ⟨_, _, ha _ _ g s, ha _ _ g t, { h with arg := congrArg (·.set i v) h.arg }⟩
  · exact .inl ⟨s, t, ha _ _ g s, ha _ _ g t, h⟩
  · exact .inr ⟨f, ha _ _ g s, ha _ _ g t⟩

theorem applyReset (h : Indistinguishable s t) : Indistinguishable s.applyReset t.applyReset where
  key := rfl
  ctr := rfl
  status := rfl
  arg := rfl
  res := rfl
  pending := h.pending
  responses := h.responses
  left := .of_cidx_eq_sentinel rfl
  right := .of_cidx_eq_sentinel rfl

theorem portEvent_alike (h : Indistinguishable s t) (e : PortEvent) :
    Alike Indistinguishable (portEvent e s) (portEvent e t) := by
  cases e with
  | access g a => exact h.portAccess_alike g a
  | reset => exact .inl ⟨_, _, rfl, rfl, h.applyReset⟩

theorem step_alike (h : Indistinguishable s t) : Alike Indistinguishable (step s) (step t) := by
  cases hp : s.pending with
  | nil => exact .inl ⟨s, t, step_nil hp, step_nil (h.pending ▸ hp), h⟩
  | cons e rest =>
    rw [step_cons hp, step_cons (h.pending ▸ hp)]
    have hrest : Indistinguishable (s.setPending rest) (t.setPending rest) := { h with pending := rfl }
    exact hrest.portEvent_alike e

theorem run_alike (h : Indistinguishable s t) (n : Nat) :
    Alike Indistinguishable (Sys2Proof.core.run n s) (Sys2Proof.core.run n t) := by
  induction n generalizing s t with
  | zero => exact .inl ⟨s, t, rfl, rfl, h⟩
  | succ n ih =>
    rcases h.step_alike with ⟨s', t', hs, ht, h'⟩ | ⟨f, hs, ht⟩
    · rw [core_run_next hs, core_run_next ht]
      exact ih h'
    · exact .inr ⟨f, core_run_fault hs n, core_run_fault ht n⟩

end Indistinguishable

/-- Settles O56: the two runs stay indistinguishable, step by step. -/
theorem cacheIsInvisibleToHosts : Obligations.CacheIsInvisibleToHosts := by
  intro n s t hs ht hvisible
  have hrun := Indistinguishable.run_alike ⟨hvisible, hs, ht⟩ n
  refine ⟨fun s' hs' => ?_, fun f hf => hrun.fault_eq hf⟩
  obtain ⟨t', ht', h'⟩ := hrun.exists_next hs'
  exact ⟨t', ht', h'.toSameVisible⟩

/-! ### Renumbered hosts -/

/-- The list of delivered values replaced. -/
def State.setResponses (s : State) (rs : List Response) : State := { s with responses := rs }

/-- The same state but for the numbers of the hosts that values were delivered to. -/
def SameButHosts (s t : State) : Prop :=
  ∃ rs, t = s.setResponses rs ∧ rs.map (·.value) = s.responses.map (·.value)

theorem State.draw_setResponses (F : Family) (s : State) (rs : List Response) :
    (s.setResponses rs).draw F = (s.draw F).setResponses rs := by
  by_cases h : s.cidx = blockIndex s.ctr
  · rw [State.draw_hit F s h, State.draw_hit F (s.setResponses rs) h]
    rfl
  · rw [State.draw_miss F s h, State.draw_miss F (s.setResponses rs) h]
    rfl

/-- No command reads the values delivered so far. -/
theorem exec_setResponses {i : Instr} {s t : State} (h : exec i s = .next t) (rs : List Response) :
    exec i (s.setResponses rs) = .next (t.setResponses rs) := by
  cases i <;> cases h
  case next => rw [exec_next, State.draw_setResponses]; rfl
  case save => rw [exec_save, State.saveIdentity_eq, State.saveIdentity_eq]; rfl
  case seed | seedDef | seedEnt | discard | equals | load | minval | maxval => rfl

theorem readRegister_setResponses (F : Family) (s : State) (rs : List Response) (r : Register) :
    readRegister F (s.setResponses rs) r = readRegister F s r := by
  cases r <;> rfl

namespace SameButHosts

variable {s t : State}

theorem portAccess_alike (h : SameButHosts s t) (a : Access) (g g' : Nat) :
    Alike SameButHosts (portAccess g a s) (portAccess g' a t) := by
  obtain ⟨rs, rfl, hrs⟩ := h
  rcases portAccessWith_cases a with ⟨off, -, ha⟩ | ⟨i, -, ha⟩ | ⟨e, ha⟩ | ⟨i, v, ha⟩ | ha | ⟨f, ha⟩
  · exact .inl ⟨_, _, ha _ _ g s, ha _ _ g' _, rs ++ [⟨g', off, readRegister Config.family s (registerAt off)⟩], rfl,
      by simp [hrs]⟩
  · obtain ⟨s', hs⟩ := exec_next_state s i
    obtain ⟨-, hresponses, -⟩ := exec_hostSide hs
    exact .inl ⟨s', _, (ha _ _ g s).trans hs, (ha _ _ g' _).trans (exec_setResponses hs rs), rs, rfl,
      by rw [hresponses, hrs]⟩
  · exact .inl ⟨_, _, ha _ _ g s, ha _ _ g' _, rs, rfl, hrs⟩
  · exact .inl ⟨_, _, ha _ _ g s, ha _ _ g' _, rs, rfl, hrs⟩
  · exact .inl ⟨_, _, ha _ _ g s, ha _ _ g' _, rs, rfl, hrs⟩
  · exact .inr ⟨f, ha _ _ g s, ha _ _ g' _⟩

theorem portEvent_relabel_alike (h : SameButHosts s t) (f : Nat → Nat) (e : PortEvent) :
    Alike SameButHosts (portEvent e s) (portEvent (e.relabel f) t) := by
  cases e with
  | access g a => exact h.portAccess_alike a g (f g)
  | reset =>
    obtain ⟨rs, rfl, hrs⟩ := h
    exact .inl ⟨_, _, rfl, rfl, rs, rfl, hrs⟩

theorem runEvents_relabel_alike (h : SameButHosts s t) (f : Nat → Nat) (es : List PortEvent) :
    Alike SameButHosts (runEvents es s) (runEvents (es.map (PortEvent.relabel f)) t) := by
  induction es generalizing s t with
  | nil => exact .inl ⟨s, t, rfl, rfl, h⟩
  | cons e es ih =>
    rcases h.portEvent_relabel_alike f e with ⟨s', t', hs, ht, h'⟩ | ⟨f', hs, ht⟩
    · rw [List.map_cons, runEvents_cons hs, runEvents_cons ht]
      exact ih h'
    · exact .inr ⟨f', by simp [runEvents, hs], by simp [runEvents, ht]⟩

/-- The delivered values are the same. -/
theorem newValues_eq (h : SameButHosts s t) (u : State) : newValues u t = newValues u s := by
  obtain ⟨rs, rfl, hrs⟩ := h
  rw [newValues, newValues, List.map_drop, List.map_drop]
  exact congrArg _ hrs

end SameButHosts

/-- Settles O47: a run and its renumbered run stay the same but for the hosts of the delivered values. -/
theorem hostNumbersDoNotReachTheEngine : Obligations.HostNumbersDoNotReachTheEngine := by
  intro f es s
  have hself : SameButHosts s s := ⟨s.responses, rfl, rfl⟩
  have hrun := hself.runEvents_relabel_alike f es
  refine ⟨fun t ht => ?_, fun e he => hrun.fault_eq he⟩
  obtain ⟨t', ht', h⟩ := hrun.exists_next ht
  refine ⟨t', ht', ?_, h.newValues_eq s⟩
  obtain ⟨rs, rfl, -⟩ := h
  rfl

end Sys2Proof.Machine
end

section
/-! Independence of quarter-rounds (41_permutation.md R122): on disjoint positions their order does not matter. -/

namespace Sys2Proof.Machine

/-- What a quarter-round leaves on its four positions depends on these four words alone. -/
theorem quarterRound_congr {x y : Block} {a b c d : Fin 16} (h : [a, b, c, d].Nodup)
    (hxy : ∀ e ∈ [a, b, c, d], x[e] = y[e]) {e : Fin 16} (he : e ∈ [a, b, c, d]) :
    (quarterRound x a b c d)[e] = (quarterRound y a b c d)[e] := by
  simp only [List.forall_mem_cons, List.not_mem_nil, false_implies, forall_true_iff, and_true] at hxy
  obtain ⟨ha, hb, hc, hd⟩ := hxy
  obtain ⟨hxa, hxb, hxc, hxd, -⟩ := quarterRoundMixesFourWords x a b c d h
  obtain ⟨hya, hyb, hyc, hyd, -⟩ := quarterRoundMixesFourWords y a b c d h
  simp only [List.mem_cons, List.not_mem_nil, or_false] at he
  rcases he with rfl | rfl | rfl | rfl
  · rw [hxa, hya, ha, hb, hc, hd]
  · rw [hxb, hyb, ha, hb, hc, hd]
  · rw [hxc, hyc, ha, hb, hc, hd]
  · rw [hxd, hyd, ha, hb, hc, hd]

/-- On a position of the first of two disjoint quarter-rounds, the other one makes no difference before or after. -/
theorem quarterRound_comm_of_mem (x : Block) {a b c d a' b' c' d' : Fin 16} (h : [a, b, c, d].Nodup)
    (hdisjoint : ∀ e ∈ [a, b, c, d], e ∉ [a', b', c', d']) {e : Fin 16} (he : e ∈ [a, b, c, d]) :
    (quarterRound (quarterRound x a b c d) a' b' c' d')[e] =
      (quarterRound (quarterRound x a' b' c' d') a b c d)[e] := by
  have hsame : ∀ e ∈ [a, b, c, d], x[e] = (quarterRound x a' b' c' d')[e] := fun e he =>
    (quarterRound_of_notMem x (hdisjoint e he)).symm
  rw [quarterRound_of_notMem _ (hdisjoint e he), quarterRound_congr h hsame he]

/-- Quarter-rounds on eight distinct positions commute (R122). -/
theorem quarterRound_comm (x : Block) {a b c d a' b' c' d' : Fin 16} (h : [a, b, c, d, a', b', c', d'].Nodup) :
    quarterRound (quarterRound x a b c d) a' b' c' d' = quarterRound (quarterRound x a' b' c' d') a b c d := by
  have hsplit : ([a, b, c, d] ++ [a', b', c', d']).Nodup := h
  obtain ⟨h₁, h₂, hdisjoint⟩ := List.nodup_append'.mp hsplit
  refine Block.ext_fin fun e => ?_
  by_cases he : e ∈ [a, b, c, d]
  · exact quarterRound_comm_of_mem x h₁ (fun e he he' => hdisjoint he he') he
  · by_cases he' : e ∈ [a', b', c', d']
    · exact (quarterRound_comm_of_mem x h₂ (fun e he' he => hdisjoint he he') he').symm
    · rw [quarterRound_of_notMem _ he', quarterRound_of_notMem _ he, quarterRound_of_notMem _ he,
        quarterRound_of_notMem _ he']

/-- The quarter-round of a row of the schedule. -/
def Quadruple.mix (x : Block) (q : Quadruple) : Block := quarterRound x q.a q.b q.c q.d

/-- The eight positions of two quadruples. -/
def Quadruple.positions (q r : Quadruple) : List (Fin 16) := [q.a, q.b, q.c, q.d, r.a, r.b, r.c, r.d]

/-- Quadruples that are pairwise disjoint may be mixed in any order. -/
theorem foldl_mix_perm {l half : List Quadruple} (hperm : l.Perm half)
    (hdisjoint : ∀ q ∈ half, ∀ r ∈ half, q = r ∨ (q.positions r).Nodup) (x : Block) :
    l.foldl Quadruple.mix x = half.foldl Quadruple.mix x := by
  refine (hperm.symm.foldl_eq' (fun q hq r hr y => ?_) x).symm
  rcases hdisjoint q hq r hr with rfl | h
  · rfl
  · exact quarterRound_comm y h

/-- Settles O12: the positions within each half of the schedule are distinct, so each half may be permuted. -/
theorem disjointQuarterRoundsCommute : Obligations.DisjointQuarterRoundsCommute := by
  refine ⟨fun x a b c d a' b' c' d' h => quarterRound_comm x h, fun x col diag hcol hdiag => ?_⟩
  have hmix : (col ++ diag).foldl Quadruple.mix x = schedule.foldl Quadruple.mix x := by
    rw [List.foldl_append, foldl_mix_perm hcol (by decide), foldl_mix_perm hdiag (by decide),
      ← List.foldl_append]
    rfl
  exact hmix

end Sys2Proof.Machine
end

section
/-! Serialize (44_state_transfer.md R168) and the parser on texts that are no encoding (R166). -/

namespace Sys2Proof.Machine

/-- SAVE and reads of RES leave everything but RES, STATUS and the delivered values. -/
theorem afterSerialize_frame (h : Nat) (s : State) :
    (s.afterSerialize h).key = s.key ∧ (s.afterSerialize h).ctr = s.ctr ∧ (s.afterSerialize h).cache = s.cache ∧
      (s.afterSerialize h).cidx = s.cidx ∧ (s.afterSerialize h).arg = s.arg := by
  simp [State.afterSerialize, State.afterResRead, State.saveIdentity]

/-- Settles O30: the five values read are the identity words. -/
theorem serializeEncodesTheIdentity : Obligations.SerializeEncodesTheIdentity :=
  fun h s => ⟨s.afterSerialize h, serialize_eq h s, afterSerialize_frame h s⟩

/-! ### Characters by the spec's classes (R164) -/

theorem isDigit_eq_false_iff (c : Char) : isDigit c = false ↔ ¬('0' ≤ c ∧ c ≤ '9') := by
  rw [← isDigit_iff, Bool.not_eq_true]

theorem isSpace_eq_false_iff (c : Char) : isSpace c = false ↔ c.toNat ∉ [0x20, 0x09, 0x0A, 0x0B, 0x0C, 0x0D] := by
  rw [← isSpace_iff, Bool.not_eq_true]

/-- No whitespace is a digit. -/
theorem isDigit_of_isSpace {c : Char} (h : isSpace c = true) : isDigit c = false :=
  Bool.eq_false_iff.mpr fun hd => Bool.eq_false_iff.mp (isSpace_of_isDigit hd) h

/-- No digit stands first where whitespace does. -/
theorem head_append_of_isSpace {ws rest : Text} (hws : ∀ c ∈ ws, isSpace c = true)
    (hrest : ws = [] → ∀ c ∈ rest.head?, isDigit c = false) : ∀ c ∈ (ws ++ rest).head?, isDigit c = false := by
  cases ws with
  | nil => simpa using hrest rfl
  | cons w ws => simpa using isDigit_of_isSpace (hws w List.mem_cons_self)

/-! ### One field, and the end of the text -/

/-- Where neither whitespace nor a digit stands, no field begins. -/
theorem parseField_of_noDigit {ws rest : Text} (hws : ∀ c ∈ ws, isSpace c = true)
    (hrest : ∀ c ∈ rest.head?, isDigit c = false ∧ isSpace c = false) :
    parseField (ws ++ rest) = .error .malformed := by
  obtain ⟨-, hskip⟩ := span_append isSpace ws rest hws fun c hc => (hrest c hc).2
  obtain ⟨htake, -⟩ := span_append isDigit [] rest (by simp) fun c hc => (hrest c hc).1
  have hnone : rest.takeWhile isDigit = [] := htake
  simp only [parseField, hskip, hnone, if_true]

/-- Settles O34: the two clauses are the field that begins with a digit and the one that does not. -/
theorem parserReadsOneField : Obligations.ParserReadsOneField := by
  intro ws ds rest hws hds
  have hws' : ∀ c ∈ ws, isSpace c = true := fun c hc => (isSpace_iff c).mpr (hws c hc)
  have hds' : ∀ c ∈ ds, isDigit c = true := fun c hc => (isDigit_iff c).mpr (hds c hc)
  constructor
  · intro hne hrest
    have hrest' : ∀ c ∈ rest.head?, isDigit c = false := fun c hc => (isDigit_eq_false_iff c).mpr (hrest c hc)
    rw [List.append_assoc, parseField_of_digits hws' hds' hne hrest']
    simp only [gt_iff_lt, ← not_le, ite_not]
  · intro hrest
    refine parseField_of_noDigit hws' fun c hc => ?_
    obtain ⟨hdigit, hspace⟩ := hrest c hc
    exact ⟨(isDigit_eq_false_iff c).mpr hdigit, (isSpace_eq_false_iff c).mpr hspace⟩

/-- Settles O35: the fifth numeral ends before whitespace or what follows it, and the end check refuses all else. -/
theorem parserRejectsTrailingText : Obligations.ParserRejectsTrailingText := by
  intro w ws rest hws
  have hws' : ∀ c ∈ ws, isSpace c = true := fun c hc => (isSpace_iff c).mpr (hws c hc)
  constructor
  · have hhead : ∀ c ∈ ws.head?, isDigit c = false := fun c hc =>
      isDigit_of_isSpace (hws' c (List.mem_of_mem_head? hc))
    rw [parseText_encodeText_append w hhead, if_pos (List.dropWhile_eq_nil_iff.mpr hws')]
  · intro hdigit hspace hne
    have hhead : ∀ c ∈ (ws ++ rest).head?, isDigit c = false :=
      head_append_of_isSpace hws' fun hnil c hc => (isDigit_eq_false_iff c).mpr (hdigit hnil c hc)
    obtain ⟨-, hdrop⟩ := span_append isSpace ws rest hws' fun c hc => (isSpace_eq_false_iff c).mpr (hspace c hc)
    rw [List.append_assoc, parseText_encodeText_append w hhead, hdrop, if_neg hne]

end Sys2Proof.Machine
end

section
/-! The pseudo-instructions (30_encoding.md R79). -/

namespace Sys2Proof.Machine

/-- A pseudo-instruction whose count and operands are in range expands to its operand writes and its command. -/
theorem expandLine_pseudo_of_wellFormed {i : Instr} {ops : List Nat} (hcount : i.operandCount = some ops.length)
    (hrange : ∀ n ∈ ops, n < 2 ^ 64) (hentropy : i = .seedEnt → ∀ n ∈ ops, n < 2 ^ 32) :
    expandLine (.pseudo i ops) = .ok (argWrites 0 ops ++ [commandAccess i]) := by
  have hcount' : operandCountWellFormed i ops = true := by simp [operandCountWellFormed, hcount]
  have hrange' : operandRangeWellFormed ops = true := by simpa [operandRangeWellFormed] using hrange
  have hentropy' : entropyRangeWellFormed i ops = true := by
    simpa [entropyRangeWellFormed, ← imp_iff_not_or] using hentropy
  rw [expandLine, if_pos hcount', if_pos hrange', if_pos hentropy']

/-- Otherwise it is rejected. -/
theorem expandLine_pseudo_rejected {i : Instr} {ops : List Nat}
    (h : operandCountWellFormed i ops = false ∨ entropyRangeWellFormed i ops = false) :
    ∃ e, expandLine (.pseudo i ops) = .error e := by
  simp only [expandLine]
  split_ifs with hcount hrange hentropy
  · simp [hcount, hentropy] at h
  · exact ⟨_, rfl⟩
  · exact ⟨_, rfl⟩
  · exact ⟨_, rfl⟩

/-- Operand `j` is written to `ARG[j]`. -/
theorem argWrites_map_toNat {m : Nat} (i : Nat) (ops : List (BitVec m)) :
    argWrites i (ops.map BitVec.toNat) =
      ops.mapIdx fun j v => Access.write (0x40 + 8 * (i + j)) 8 (v.setWidth 64) := by
  induction ops generalizing i with
  | nil => rfl
  | cons v vs ih => simp [argWrites, ih, Nat.add_comm, Nat.add_left_comm]

/-- The right number of operands of a width that is in range expands to one write each and the command's word. -/
theorem expandLine_pseudo_bitVec {m : Nat} {i : Instr} (hm : m ≤ 64) (hentropy : i = .seedEnt → m ≤ 32)
    (ops : List (BitVec m)) (hcount : i.operandCount = some ops.length) :
    expandLine (.pseudo i (ops.map BitVec.toNat)) =
      .ok ((ops.mapIdx fun j v => Access.write (0x40 + 8 * j) 8 (v.setWidth 64)) ++ [.write 0x00 8 (encode i)]) := by
  have hlt {k : Nat} (hk : m ≤ k) : ∀ n ∈ ops.map BitVec.toNat, n < 2 ^ k :=
    List.forall_mem_map.mpr fun v _ => v.isLt.trans_le (Nat.pow_le_pow_right (by decide) hk)
  rw [expandLine_pseudo_of_wellFormed (by rw [hcount, List.length_map]) (hlt hm) fun hi => hlt (hentropy hi),
    argWrites_map_toNat]
  simp only [Nat.zero_add]
  rfl

theorem operandCountWellFormed_iff (i : Instr) (ops : List Nat) : operandCountWellFormed i ops = true ↔
    (i, ops.length) ∈ [(Instr.seed, 2), (.seedEnt, 8), (.discard, 1), (.equals, 5), (.load, 5)] := by
  rw [operandCountWellFormed, beq_iff_eq, eq_comm]
  cases i <;> simp [Instr.operandCount]

/-- Settles O58: operands in range expand by one rule; a wrong count and a large entropy operand each fail a check. -/
theorem pseudoInstructionsExpandAsListed : Obligations.PseudoInstructionsExpandAsListed := by
  have hwords {i : Instr} (hi : i ≠ .seedEnt) (ops : List Word) (hcount : i.operandCount = some ops.length) :=
    expandLine_pseudo_bitVec (le_refl 64) (fun h => absurd h hi) ops hcount
  refine ⟨fun s t => hwords (i := .seed) (by decide) [s, t] rfl,
    fun e0 e1 e2 e3 e4 e5 e6 e7 =>
      expandLine_pseudo_bitVec (by decide) (fun _ => le_refl 32) [e0, e1, e2, e3, e4, e5, e6, e7] rfl,
    fun n => hwords (i := .discard) (by decide) [n] rfl,
    fun k0 k1 k2 k3 c => ⟨hwords (i := .equals) (by decide) [k0, k1, k2, k3, c] rfl,
      hwords (i := .load) (by decide) [k0, k1, k2, k3, c] rfl⟩,
    rfl, fun _ => rfl, fun i ops hcount => ?_, fun ops ⟨n, hn, hlarge⟩ => ?_⟩
  · refine expandLine_pseudo_rejected (.inl (Bool.eq_false_iff.mpr fun h => ?_))
    exact hcount ((operandCountWellFormed_iff i ops).mp h)
  · refine expandLine_pseudo_rejected (.inr ?_)
    have : ∃ n ∈ ops, 2 ^ 32 ≤ n := ⟨n, hn, hlarge⟩
    simpa [entropyRangeWellFormed] using this

end Sys2Proof.Machine
end

section
/-! Several engines on one platform (60_exceptions.md R213): which of them an access or a reset reaches, and what the
others keep. -/

namespace Sys2Proof.Machine

/-! ### One engine replaced -/

/-- `q` stands where `p` stands, with the same family, and is `p` itself unless the event `reaches` the place of `p`. -/
def KeepsPlace (reaches : Prop) (p q : PlacedEngine) : Prop :=
  q.base = p.base ∧ q.family = p.family ∧ (¬reaches → q = p)

theorem KeepsPlace.refl (reaches : Prop) (p : PlacedEngine) : KeepsPlace reaches p p := ⟨rfl, rfl, fun _ => rfl⟩

/-- Engines listed one by one, each in its place. -/
theorem keepsPlace_getElem? {reaches : PlacedEngine → Prop} {ps qs : Platform}
    (h : List.Forall₂ (fun p q => KeepsPlace (reaches p) p q) ps qs) {k : Nat} {p q : PlacedEngine}
    (hp : ps[k]? = some p) (hq : qs[k]? = some q) : KeepsPlace (reaches p) p q := by
  induction h generalizing k with
  | nil => simp at hp
  | cons hpq _ ih =>
    cases k with
    | zero =>
      obtain rfl := Option.some.inj hp
      obtain rfl := Option.some.inj hq
      exact hpq
    | succ k => exact ih hp hq

/-! ### Accesses by platform address -/

theorem mapNext_mapNext {α β γ : Type} (f : α → β) (g : β → γ) (o : Host.Outcome α Fault Refusal) :
    mapNext g (mapNext f o) = mapNext (fun x => g (f x)) o := by
  cases o <;> rfl

theorem mapNext_eq_next {α β : Type} {f : α → β} {o : Host.Outcome α Fault Refusal} {y : β} :
    mapNext f o = .next y ↔ ∃ x, o = .next x ∧ f x = y := by
  cases o <;> simp

/-- The first engine whose window holds the address performs the access. -/
theorem platformAccess_first {h : Nat} {a : Access} {ps : Platform} {k : Nat} {p : PlacedEngine} {off : Nat}
    (hk : ps[k]? = some p) (hoff : windowOffset p.base a.place = some off)
    (hbefore : ∀ (j : Nat) (r : PlacedEngine), j < k → ps[j]? = some r → windowOffset r.base a.place = none) :
    platformAccess h a ps =
      mapNext (fun t => ps.set k { p with engine := t }) (p.engine.access h (a.relocate off)) := by
  induction ps generalizing k with
  | nil => simp at hk
  | cons q qs ih =>
    cases k with
    | zero =>
      obtain rfl := Option.some.inj hk
      exact platformAccess_here hoff qs
    | succ k =>
      have hq : windowOffset q.base a.place = none := hbefore 0 q (Nat.succ_pos k) rfl
      rw [platformAccess_later hq, ih hk fun j r hj hr => hbefore (j + 1) r (Nat.succ_lt_succ hj) hr, mapNext_mapNext]
      rfl

/-- An address in no window reaches no engine. -/
theorem platformAccess_none (h : Nat) {a : Access} {ps : Platform}
    (hps : ∀ p ∈ ps, windowOffset p.base a.place = none) : platformAccess h a ps = .next ps := by
  induction ps with
  | nil => rfl
  | cons p ps ih =>
    obtain ⟨hp, hrest⟩ := List.forall_mem_cons.mp hps
    rw [platformAccess_later hp, ih hrest, mapNext_next]

theorem platformAccess_keepsPlace {h : Nat} {a : Access} {ps qs : Platform} (hqs : platformAccess h a ps = .next qs) :
    List.Forall₂ (fun p q => KeepsPlace (windowOffset p.base a.place ≠ none) p q) ps qs := by
  induction ps generalizing qs with
  | nil => cases hqs; exact .nil
  | cons p ps ih =>
    cases hoff : windowOffset p.base a.place with
    | none =>
      rw [platformAccess_later hoff, mapNext_eq_next] at hqs
      obtain ⟨qs, hrest, rfl⟩ := hqs
      exact .cons (.refl _ p) (ih hrest)
    | some off =>
      rw [platformAccess_here hoff, mapNext_eq_next] at hqs
      obtain ⟨t, -, rfl⟩ := hqs
      have hreached : windowOffset p.base a.place ≠ none := by simp [hoff]
      exact .cons ⟨rfl, rfl, fun hnot => absurd hreached hnot⟩ (List.forall₂_same.mpr fun p _ => .refl _ p)

/-- Settles O59: an access walks the engines to the first that it reaches and replaces that one alone. -/
theorem platformAccessLeavesOtherEngines : Obligations.PlatformAccessLeavesOtherEngines := by
  refine ⟨fun base addr off => ?_, fun h a ps k p off hk hoff hbefore => ?_, fun h a ps => platformAccess_none h,
    fun h a ps qs hqs => ?_⟩
  · rw [windowOffset_eq_some, windowSize]
    omega
  · rw [platformAccess_first hk hoff hbefore]
    exact ⟨fun t ht => by rw [ht, mapNext_next], fun f hf => by rw [hf, mapNext_fault]⟩
  · have hkeeps := platformAccess_keepsPlace hqs
    refine ⟨hkeeps.length_eq.symm, fun k p q hp hq => ?_⟩
    obtain ⟨hbase, hfamily, hsame⟩ := keepsPlace_getElem? hkeeps hp hq
    exact ⟨hbase, hfamily, fun hnone => hsame (not_not.mpr hnone)⟩

/-! ### Start and reset -/

/-- Each engine of a started platform is its family's, from reset. -/
theorem startPlatform_getElem? (n : Nat) (places : List (Nat × Family)) (k : Nat) :
    (startPlatform n places)[k]? =
      places[k]?.map fun place => ⟨place.1, place.2, Engine.resetFrom place.2 (n + 16 * k)⟩ := by
  induction places generalizing n k with
  | nil => rfl
  | cons place places ih =>
    obtain ⟨base, F⟩ := place
    cases k with
    | zero => rfl
    | succ k =>
      have hnumber : n + 16 + 16 * k = n + 16 * (k + 1) := by omega
      simp only [startPlatform, List.getElem?_cons_succ, ih, hnumber]

theorem resetAt_keepsPlace (base n : Nat) (ps : Platform) :
    List.Forall₂ (fun p q => KeepsPlace (p.base = base) p q) ps (resetAt base n ps) := by
  induction ps with
  | nil => exact .nil
  | cons p ps ih =>
    by_cases hp : p.base = base
    · rw [resetAt, if_pos hp]
      exact .cons ⟨rfl, rfl, fun hnot => absurd hp hnot⟩ (List.forall₂_same.mpr fun p _ => .refl _ p)
    · rw [resetAt, if_neg hp]
      exact .cons (.refl _ p) ih

/-- The first engine at the base is reset, by its own family. -/
theorem resetAt_first {base : Nat} (n : Nat) {ps : Platform} {k : Nat} {p : PlacedEngine} (hk : ps[k]? = some p)
    (hp : p.base = base) (hbefore : ∀ (j : Nat) (r : PlacedEngine), j < k → ps[j]? = some r → r.base ≠ base) :
    (resetAt base n ps)[k]? = some { p with engine := p.engine.reset n } := by
  induction ps generalizing k with
  | nil => simp at hk
  | cons q qs ih =>
    cases k with
    | zero =>
      obtain rfl := Option.some.inj hk
      rw [resetAt, if_pos hp]
      rfl
    | succ k =>
      have hq : q.base ≠ base := hbefore 0 q (Nat.succ_pos k) rfl
      rw [resetAt, if_neg hq]
      exact ih hk fun j r hj hr => hbefore (j + 1) r (Nat.succ_lt_succ hj) hr

/-! ### An engine of its own family -/

/-- Only ROUNDS shows the family (10_state.md R31 to R36). -/
theorem readRegister_family {r : Register} (hr : r ≠ .rounds) (F G : Family) (s : State) :
    readRegister F s r = readRegister G s r := by
  cases r with
  | rounds => exact absurd rfl hr
  | cmd | status | arg _ | res _ | reserved => rfl

/-- ROUNDS stands at its own offset only. -/
theorem registerAt_eq_rounds {off : Nat} (h : registerAt off = .rounds) : off = roundsOffset := by
  unfold registerAt at h
  split_ifs at h
  assumption

/-- Every access but SEED, SEED_DEF, NEXT and a read of ROUNDS is the same on every family. -/
theorem portAccessOf_eq_portAccess (F : Family) (h : Nat) {a : Access} (s : State)
    (ha : a ∉ [commandAccess .seed, commandAccess .seedDef, commandAccess .next, .read roundsOffset 8]) :
    portAccessOf F h a s = portAccess h a s := by
  rw [portAccessOf, portAccess]
  rcases portAccessWith_cases a with ⟨off, rfl, hdo⟩ | ⟨i, rfl, hdo⟩ | ⟨e, hdo⟩ | ⟨i, v, hdo⟩ | hdo | ⟨f, hdo⟩
  · have hr : registerAt off ≠ .rounds := fun hr => ha (by simp [registerAt_eq_rounds hr])
    rw [hdo, hdo, readRegister_family hr F Config.family]
  · have hi : i ∉ [Instr.seed, Instr.seedDef, Instr.next] := fun hi => ha (by
      simp only [List.mem_cons, List.not_mem_nil, or_false] at hi
      rcases hi with rfl | rfl | rfl <;> simp)
    rw [hdo, hdo, execOf_eq_exec F hi]
  · rw [hdo, hdo]
  · rw [hdo, hdo]
  · rw [hdo, hdo]
  · rw [hdo, hdo]

/-- NEXT on an engine of any family gives the word of its own stream and keeps its cache valid. -/
theorem portAccessOf_next {F : Family} {s : State} (hs : CacheValid F s) (h : Nat) :
    ∃ t, portAccessOf F h (commandAccess .next) s = .next t ∧ CacheValid F t ∧ t.ctr = s.ctr + 1 ∧
      t.res[0] = streamWord F s.key s.ctr :=
  ⟨_, portAccessOf_command F h .next s, (cacheValid_accept F _).mpr hs.draw, State.draw_ctr F s,
    State.draw_res_zero F s hs⟩

theorem Engine.access_eq_next_iff {F : Family} {e t : Engine F} {h : Nat} {a : Access} :
    e.access h a = .next t ↔ portAccessOf F h a e.state = .next t.state := by
  rw [Engine.access, mapNext_eq_next]
  constructor
  · rintro ⟨u, hu, rfl⟩
    exact hu
  · exact fun ht => ⟨t.state, ht, rfl⟩

theorem Engine.access_eq_fault_iff {F : Family} {e : Engine F} {h : Nat} {a : Access} {f : Fault} :
    e.access h a = .fault f ↔ portAccessOf F h a e.state = .fault f := by
  rw [Engine.access]
  cases portAccessOf F h a e.state <;> simp

/-- Settles O60: the start and the reset of each place, and the accesses of one engine by its family. -/
theorem placedEnginesResetAndRunByTheirOwnFamily : Obligations.PlacedEnginesResetAndRunByTheirOwnFamily := by
  refine ⟨fun n places => ⟨startPlatform_length n places, fun k base F hk => ?_⟩,
    fun base ps => ⟨_, rfl, resetAt_length _ _ _, fun k p q hp hq => ?_⟩, fun F h s => ⟨?_, ?_, fun hs => ?_, ?_⟩,
    fun F h a e => ⟨fun t => Engine.access_eq_next_iff, fun f => Engine.access_eq_fault_iff⟩,
    fun F h a s ha => portAccessOf_eq_portAccess F h s ha, portAccessOf_family⟩
  · exact ⟨_, by rw [startPlatform_getElem?, hk]; rfl, resetFrom_hasResetValues F _⟩
  · obtain ⟨hbase, hfamily, hsame⟩ := keepsPlace_getElem? (resetAt_keepsPlace base _ ps) hp hq
    refine ⟨hbase, hfamily, hsame, fun hp' hfirst => ?_⟩
    obtain rfl := Option.some.inj (hq.symm.trans (resetAt_first _ hp hp' hfirst))
    exact resetEngine_hasResetValues _ _ _
  · exact portAccessOf_command F h .seed s
  · exact portAccessOf_command F h .seedDef s
  · exact portAccessOf_next hs h
  · rfl

end Sys2Proof.Machine
end
